-- ==== Sys2Proof/Word.lean ====
section
/-! DEFINITION. The word types of the decimal floating-point facility (spec/10_state.md R20, R46, R50). -/

namespace Sys2Proof

/-- A byte of storage (20_memory.md R66). -/
abbrev Byte := BitVec 8

/-- The contents of one floating-point register: 64 uninterpreted bits (10_state.md R20, R21). -/
abbrev Doubleword := BitVec 64

/-- An instruction word (30_encoding.md R80). -/
abbrev InsnWord := BitVec 32

/-- An instruction address, 64 bits wide (10_state.md R50, 92_eei_decisions.md D1). -/
abbrev Addr := BitVec 64

/-- The number of a floating-point register, 0 to 31 (10_state.md R20). -/
abbrev FReg := Fin 32

/-- The number of a condition-register field, 0 to 7 (10_state.md R46). -/
abbrev CRField := Fin 8

end Sys2Proof
end

