-- ==== Sys2Proof/Config.lean ====
section
/-! DEFINITION. The values the spec leaves open. Each is an opaque constant without a body, applied to the
model's counter of free values (`State.freeCount`), so a claim about one holds whatever the value is. -/

namespace Sys2Proof.Config

/-- FREE VALUE (log entry 3; 46_conversion.md R303, 92_eei_decisions.md D8 `NarrowResultPad`): bits 0:31 of FRT
after a `drsp` that delivers a DFP32 result. Safe: nothing can be proved of it. -/
opaque drspPad : Nat → BitVec 32

/-- FREE VALUE (log entry 3; 46_conversion.md R304, 92_eei_decisions.md D8 `NarrowResultPad`): FPR[FRTp+1] after a
`drdpq` that delivers a DFP64 result. Safe: nothing can be proved of it. -/
opaque drdpqPad : Nat → Doubleword

/-- FREE VALUE (log entry 4; 60_exceptions.md R378, D6): whether, in an imprecise mode, the handler is invoked at the
excepting instruction itself ("taking it at the excepting instruction itself (as in Precise Mode) is one of the
allowed behaviours"). Safe: both behaviours stay possible. -/
opaque trapAtOnce : Nat → Bool

/-- FREE VALUE (log entry 4; 60_exceptions.md R378, D6 `ImpreciseDelay`): whether, with an enabled exception pending,
the handler is invoked before the next instruction begins. Safe: both behaviours stay possible. -/
opaque trapBeforeNext : Nat → Bool

end Sys2Proof.Config
end

