-- ==== Sys2Proof/Machine/Bits.lean ====
section
/-! DEFINITION. Bits and fields of a register in the left-to-right numbering of 00_scope.md R9, R10. -/

namespace Sys2Proof.Machine

/-- Bit i of v, bit 0 leftmost (00_scope.md R9). -/
def bitAt {w : Nat} (v : BitVec w) (i : Nat) : Bool := v.getMsbD i

/-- The doubleword v with bit i, leftmost 0, set to b. -/
def setBitAt (v : BitVec 64) (i : Nat) (b : Bool) : BitVec 64 :=
  if b then v ||| (1#64 <<< (63 - i)) else v &&& ~~~(1#64 <<< (63 - i))

/-- The field v[a:b] (00_scope.md R10). -/
def slice {w : Nat} (v : BitVec w) (a b : Nat) : BitVec (b + 1 - a) := v.extractLsb' (w - 1 - b) (b + 1 - a)

/-- The doubleword v with the bits from number a on set to those of x, left to right. -/
def setBits (v : BitVec 64) (a : Nat) : List Bool → BitVec 64
  | [] => v
  | b :: bs => setBits (setBitAt v a b) (a + 1) bs

/-- The four bits of a condition code, left to right. -/
def bitsOf4 (x : BitVec 4) : List Bool := [bitAt x 0, bitAt x 1, bitAt x 2, bitAt x 3]

/-- The five bits of a result-flags code, left to right. -/
def bitsOf5 (x : BitVec 5) : List Bool := [bitAt x 0, bitAt x 1, bitAt x 2, bitAt x 3, bitAt x 4]

/-- The mask of the FPSCR bits with the given numbers. -/
def maskOf (bits : List Nat) : BitVec 64 := bits.foldl (fun m i => setBitAt m i true) 0

end Sys2Proof.Machine
end

