-- ==== Sys2Proof/Syntax.lean ====
section
/-! DEFINITION. The 49 instructions of the decimal floating-point facility, one constructor per row of
spec/opcode_table.json in the table's order (30_encoding.md R95). Each carries the fields of its layout (R83 to R86)
in the order of the word; the record bit Rc is a field (R86). -/

namespace Sys2Proof

/-- The rows of 30_encoding.md R95, by mnemonic (the spelling of R101). -/
inductive Op where
  | dadd | daddq | dsub | dsubq | dmul | dmulq | ddiv | ddivq | dcmpu | dcmpuq | dcmpo | dcmpoq | dtstdc
  | dtstdcq | dtstdg | dtstdgq | dtstex | dtstexq | dtstsf | dtstsfq | dquai | dquaiq | dqua | dquaq
  | drrnd | drrndq | drintx | drintxq | drintn | drintnq | dctdp | dctqpq | drsp | drdpq | dcffixq | dctfix
  | dctfixq | ddedpd | ddedpdq | denbcd | denbcdq | dxex | dxexq | diex | diexq | dscli | dscliq | dscri
  | dscriq
  deriving DecidableEq, Repr

/-- A decoded DFP instruction. Register fields hold the number in the word: a field that names a pair holds the number of
the pair's even register, and `Instr.wellFormed` checks that it is even (30_encoding.md R103). `mask` is DCM or DGM,
`sgn` is S, `sp0 sp1` are the two bits of SP, `te` is the 5-bit TE, `r` is R (R86). -/
inductive Instr where
  /-- DFP Add (R223). -/
  | dadd (frt fra frb : FReg) (rc : Bool)
  /-- DFP Add Quad (R224). -/
  | daddq (frt fra frb : FReg) (rc : Bool)
  /-- DFP Subtract (R225). -/
  | dsub (frt fra frb : FReg) (rc : Bool)
  /-- DFP Subtract Quad (R226). -/
  | dsubq (frt fra frb : FReg) (rc : Bool)
  /-- DFP Multiply (R228). -/
  | dmul (frt fra frb : FReg) (rc : Bool)
  /-- DFP Multiply Quad (R229). -/
  | dmulq (frt fra frb : FReg) (rc : Bool)
  /-- DFP Divide (R231). -/
  | ddiv (frt fra frb : FReg) (rc : Bool)
  /-- DFP Divide Quad (R232). -/
  | ddivq (frt fra frb : FReg) (rc : Bool)
  /-- DFP Compare Unordered (R242). -/
  | dcmpu (bf : CRField) (fra frb : FReg)
  /-- DFP Compare Unordered Quad (R243). -/
  | dcmpuq (bf : CRField) (fra frb : FReg)
  /-- DFP Compare Ordered (R244). -/
  | dcmpo (bf : CRField) (fra frb : FReg)
  /-- DFP Compare Ordered Quad (R245). -/
  | dcmpoq (bf : CRField) (fra frb : FReg)
  /-- DFP Test Data Class (R251). -/
  | dtstdc (bf : CRField) (fra : FReg) (mask : BitVec 6)
  /-- DFP Test Data Class Quad (R252). -/
  | dtstdcq (bf : CRField) (fra : FReg) (mask : BitVec 6)
  /-- DFP Test Data Group (R253). -/
  | dtstdg (bf : CRField) (fra : FReg) (mask : BitVec 6)
  /-- DFP Test Data Group Quad (R254). -/
  | dtstdgq (bf : CRField) (fra : FReg) (mask : BitVec 6)
  /-- DFP Test Exponent (R255). -/
  | dtstex (bf : CRField) (fra frb : FReg)
  /-- DFP Test Exponent Quad (R256). -/
  | dtstexq (bf : CRField) (fra frb : FReg)
  /-- DFP Test Significance (R257). -/
  | dtstsf (bf : CRField) (fra frb : FReg)
  /-- DFP Test Significance Quad (R258). -/
  | dtstsfq (bf : CRField) (fra frb : FReg)
  /-- DFP Quantize Immediate (R273). -/
  | dquai (frt : FReg) (te : BitVec 5) (frb : FReg) (rmc : Fin 4) (rc : Bool)
  /-- DFP Quantize Immediate Quad (R274). -/
  | dquaiq (frt : FReg) (te : BitVec 5) (frb : FReg) (rmc : Fin 4) (rc : Bool)
  /-- DFP Quantize (R275). -/
  | dqua (frt fra frb : FReg) (rmc : Fin 4) (rc : Bool)
  /-- DFP Quantize Quad (R276). -/
  | dquaq (frt fra frb : FReg) (rmc : Fin 4) (rc : Bool)
  /-- DFP Reround (R278). -/
  | drrnd (frt fra frb : FReg) (rmc : Fin 4) (rc : Bool)
  /-- DFP Reround Quad (R279). -/
  | drrndq (frt fra frb : FReg) (rmc : Fin 4) (rc : Bool)
  /-- DFP Round To FP Integer With Inexact (R281). -/
  | drintx (frt : FReg) (r : Bool) (frb : FReg) (rmc : Fin 4) (rc : Bool)
  /-- DFP Round To FP Integer With Inexact Quad (R282). -/
  | drintxq (frt : FReg) (r : Bool) (frb : FReg) (rmc : Fin 4) (rc : Bool)
  /-- DFP Round To FP Integer Without Inexact (R283). -/
  | drintn (frt : FReg) (r : Bool) (frb : FReg) (rmc : Fin 4) (rc : Bool)
  /-- DFP Round To FP Integer Without Inexact Quad (R284). -/
  | drintnq (frt : FReg) (r : Bool) (frb : FReg) (rmc : Fin 4) (rc : Bool)
  /-- DFP Convert To DFP64 (R301). -/
  | dctdp (frt frb : FReg) (rc : Bool)
  /-- DFP Convert To DFP128 (R302). -/
  | dctqpq (frt frb : FReg) (rc : Bool)
  /-- DFP Round To DFP32 (R303). -/
  | drsp (frt frb : FReg) (rc : Bool)
  /-- DFP Round To DFP64 (R304). -/
  | drdpq (frt frb : FReg) (rc : Bool)
  /-- DFP Convert From Fixed Quad (R305). -/
  | dcffixq (frt frb : FReg) (rc : Bool)
  /-- DFP Convert To Fixed (R306). -/
  | dctfix (frt frb : FReg) (rc : Bool)
  /-- DFP Convert To Fixed Quad (R307). -/
  | dctfixq (frt frb : FReg) (rc : Bool)
  /-- DFP Decode DPD To BCD (R331). -/
  | ddedpd (frt : FReg) (sp0 sp1 : Bool) (frb : FReg) (rc : Bool)
  /-- DFP Decode DPD To BCD Quad (R332). -/
  | ddedpdq (frt : FReg) (sp0 sp1 : Bool) (frb : FReg) (rc : Bool)
  /-- DFP Encode BCD To DPD (R333). -/
  | denbcd (frt : FReg) (sgn : Bool) (frb : FReg) (rc : Bool)
  /-- DFP Encode BCD To DPD Quad (R334). -/
  | denbcdq (frt : FReg) (sgn : Bool) (frb : FReg) (rc : Bool)
  /-- DFP Extract Biased Exponent (R340). -/
  | dxex (frt frb : FReg) (rc : Bool)
  /-- DFP Extract Biased Exponent Quad (R341). -/
  | dxexq (frt frb : FReg) (rc : Bool)
  /-- DFP Insert Biased Exponent (R342). -/
  | diex (frt fra frb : FReg) (rc : Bool)
  /-- DFP Insert Biased Exponent Quad (R343). -/
  | diexq (frt fra frb : FReg) (rc : Bool)
  /-- DFP Shift Coefficient Left Immediate (R344). -/
  | dscli (frt fra : FReg) (sh : Fin 64) (rc : Bool)
  /-- DFP Shift Coefficient Left Quad Immediate (R345). -/
  | dscliq (frt fra : FReg) (sh : Fin 64) (rc : Bool)
  /-- DFP Shift Coefficient Right Immediate (R346). -/
  | dscri (frt fra : FReg) (sh : Fin 64) (rc : Bool)
  /-- DFP Shift Coefficient Right Quad Immediate (R347). -/
  | dscriq (frt fra : FReg) (sh : Fin 64) (rc : Bool)
  deriving DecidableEq, Repr

/-- Why a word has no behaviour: the three refusals of 30_encoding.md R103 to R105 (92_eei_decisions.md D3, D4). -/
inductive Undecodable where
  /-- The word matches no row of R95 (R105). -/
  | unallocated
  /-- The word matches a row and has a reserved bit set (R104). -/
  | reservedBits
  /-- A field that names an FPR pair holds an odd number (R103). -/
  | invalidForm
  deriving DecidableEq, Repr

/-- The row of R95 an instruction belongs to. -/
def Instr.op : Instr → Op
  | .dadd _ _ _ _ => .dadd
  | .daddq _ _ _ _ => .daddq
  | .dsub _ _ _ _ => .dsub
  | .dsubq _ _ _ _ => .dsubq
  | .dmul _ _ _ _ => .dmul
  | .dmulq _ _ _ _ => .dmulq
  | .ddiv _ _ _ _ => .ddiv
  | .ddivq _ _ _ _ => .ddivq
  | .dcmpu _ _ _ => .dcmpu
  | .dcmpuq _ _ _ => .dcmpuq
  | .dcmpo _ _ _ => .dcmpo
  | .dcmpoq _ _ _ => .dcmpoq
  | .dtstdc _ _ _ => .dtstdc
  | .dtstdcq _ _ _ => .dtstdcq
  | .dtstdg _ _ _ => .dtstdg
  | .dtstdgq _ _ _ => .dtstdgq
  | .dtstex _ _ _ => .dtstex
  | .dtstexq _ _ _ => .dtstexq
  | .dtstsf _ _ _ => .dtstsf
  | .dtstsfq _ _ _ => .dtstsfq
  | .dquai _ _ _ _ _ => .dquai
  | .dquaiq _ _ _ _ _ => .dquaiq
  | .dqua _ _ _ _ _ => .dqua
  | .dquaq _ _ _ _ _ => .dquaq
  | .drrnd _ _ _ _ _ => .drrnd
  | .drrndq _ _ _ _ _ => .drrndq
  | .drintx _ _ _ _ _ => .drintx
  | .drintxq _ _ _ _ _ => .drintxq
  | .drintn _ _ _ _ _ => .drintn
  | .drintnq _ _ _ _ _ => .drintnq
  | .dctdp _ _ _ => .dctdp
  | .dctqpq _ _ _ => .dctqpq
  | .drsp _ _ _ => .drsp
  | .drdpq _ _ _ => .drdpq
  | .dcffixq _ _ _ => .dcffixq
  | .dctfix _ _ _ => .dctfix
  | .dctfixq _ _ _ => .dctfixq
  | .ddedpd _ _ _ _ _ => .ddedpd
  | .ddedpdq _ _ _ _ _ => .ddedpdq
  | .denbcd _ _ _ _ => .denbcd
  | .denbcdq _ _ _ _ => .denbcdq
  | .dxex _ _ _ => .dxex
  | .dxexq _ _ _ => .dxexq
  | .diex _ _ _ _ => .diex
  | .diexq _ _ _ _ => .diexq
  | .dscli _ _ _ _ => .dscli
  | .dscliq _ _ _ _ => .dscliq
  | .dscri _ _ _ _ => .dscri
  | .dscriq _ _ _ _ => .dscriq

end Sys2Proof
end

