-- ==== Sys2Proof/Machine/State.lean ====
section
/-! DEFINITION. The state of the machine (spec/10_state.md, 20_memory.md, 60_exceptions.md), its faults and refusals,
and its state after reset (70_reset_and_hazards.md R400, R402). -/

namespace Sys2Proof.Machine

/-- Everything the spec gives the machine, as plain data. -/
structure State where
  /-- The 32 floating-point registers of 64 bits (10_state.md R20, R21). -/
  fpr : Vector Doubleword 32
  /-- The floating-point status and control register, bit 0 leftmost (10_state.md R30, R31). -/
  fpscr : BitVec 64
  /-- The eight fields of the condition register (10_state.md R46). -/
  cr : Vector (BitVec 4) 8
  /-- The exception mode FE0 || FE1 (10_state.md R49); no instruction writes it. -/
  feMode : BitVec 2
  /-- The instruction address (10_state.md R50). -/
  pc : Addr
  /-- An enabled exception of an imprecise mode has not yet been delivered (10_state.md R53, 60_exceptions.md R378). -/
  pending : Bool
  /-- The outcome `Trap(FPEnabled, at)` of 60_exceptions.md R377, once taken: the address of the instruction at which the
  handler is invoked. A trapped machine waits for the host's `resume` (70_reset_and_hazards.md R405; log entry 5). -/
  trapAt : Option Addr
  /-- The bytes of storage that hold a value, by rising address (20_memory.md R61, R66; log entry 2). -/
  mem : List Host.Cell
  /-- The parameter `InsnBigEndian` (20_memory.md R66, 92_eei_decisions.md D2; log entry 7). -/
  insnBigEndian : Bool
  /-- The model's own: the registers written by the excepting instructions while `pending` (60_exceptions.md R378; log
  entry 6). -/
  pendingFprs : List FReg
  /-- The model's own: the FPSCR bits written by the excepting instructions while `pending` (60_exceptions.md R378; log
  entry 6). -/
  pendingFpscr : BitVec 64
  /-- The model's own: the counter that the free values of `Config` are applied to (log entry 3). -/
  freeCount : Nat
  deriving DecidableEq, Repr

/-- Why a step stops with a fault. -/
inductive Fault where
  /-- Raised by `step` in a state in which `Trap(FPEnabled, at)` has been taken: the run is over until the host resumes
  (60_exceptions.md R377, 92_eei_decisions.md D13). Safe: the machine stops. -/
  | trapped (at_ : Addr)
  /-- Raised by `step` when pc is no multiple of 4 (10_state.md R50; log entry 14). Safe: the machine stops. -/
  | misalignedPc (pc : Addr)
  /-- Raised by `step` when the instruction's word holds a byte without a value (20_memory.md R66; log entry 2). Safe: the
  machine stops. -/
  | unwrittenByte (addr : Nat)
  deriving DecidableEq, Repr

/-- Why the model refuses a step. -/
inductive Refusal where
  /-- Raised by a dispatch arm whose instruction has no meaning yet. Safe: the machine stops. -/
  | notModelled (mnemonic : String)
  /-- Raised by `step`: the outcome `Refuse(word)` of 30_encoding.md R103 to R105 (log entry 8). Safe: the machine stops. -/
  | refusedWord (why : Undecodable) (word : InsnWord)
  /-- Raised by the meaning of a quad instruction one of whose pair fields is odd (30_encoding.md R103; log entry 8). The
  decoder never gives such an instruction. Safe: the machine stops. -/
  | invalidForm
  deriving DecidableEq, Repr

/-- What executing an instruction answers. -/
abbrev Answer := Host.Outcome State Fault Refusal

/-- The state after reset. The spec gives no reset value but `pending` = false (70_reset_and_hazards.md R400); every other
value is that of the spec's conventional start state S0 (R402). DESIGN CHOICE (log entry 1), unsafe: hardware may start
with other values. -/
def State.reset : State where
  fpr := Vector.replicate 32 0
  fpscr := 0
  cr := Vector.replicate 8 0
  feMode := 0
  pc := 0
  pending := false
  trapAt := none
  mem := []
  insnBigEndian := true
  pendingFprs := []
  pendingFpscr := 0
  freeCount := 0

end Sys2Proof.Machine
end

