-- ==== Sys2Proof/Machine/Flags.lean ====
section
/-! DEFINITION. The FPSCR: its fields, the exceptions that set it, and `Commit`, the update every DFP instruction makes
(spec/10_state.md section 2, 41_dfp_execution_model.md R205, 60_exceptions.md). -/

namespace Sys2Proof.Machine

/-- The exceptions a DFP instruction can cause, by the name of their status bit (60_exceptions.md R371). -/
inductive Exc where
  | ox | ux | zx | xx | vxsnan | vxisi | vxidi | vxzdz | vximz | vxvc | vxcvi
  deriving DecidableEq, Repr

/-- The FPSCR bit of an exception (10_state.md R31). -/
def Exc.bit : Exc → Nat
  | .ox => 35
  | .ux => 36
  | .zx => 37
  | .xx => 38
  | .vxsnan => 39
  | .vxisi => 40
  | .vxidi => 41
  | .vxzdz => 42
  | .vximz => 43
  | .vxvc => 44
  | .vxcvi => 55

/-- The five kinds of 60_exceptions.md R370, the members of the set that is raised (R377). -/
inductive ExcKind where
  | invalid | overflow | underflow | zeroDivide | inexact
  deriving DecidableEq, Repr

/-- The kind of an exception (60_exceptions.md R371). -/
def Exc.kind : Exc → ExcKind
  | .ox => .overflow
  | .ux => .underflow
  | .zx => .zeroDivide
  | .xx => .inexact
  | .vxsnan | .vxisi | .vxidi | .vxzdz | .vximz | .vxvc | .vxcvi => .invalid

/-- The enable bit of a kind: VE, OE, UE, ZE, XE (10_state.md R31). -/
def ExcKind.enableBit : ExcKind → Nat
  | .invalid => 56
  | .overflow => 57
  | .underflow => 58
  | .zeroDivide => 59
  | .inexact => 60

/-- Whether a kind of exception is enabled (10_state.md R43). -/
def enabled (fpscr : BitVec 64) (k : ExcKind) : Bool := bitAt fpscr k.enableBit

/-- The Invalid Operation bits, the ones VX is the OR of (10_state.md R35, 92_eei_decisions.md D15). -/
def invalidBits : List Nat := [39, 40, 41, 42, 43, 44, 53, 54, 55]

/-- The floating-point exception bits (10_state.md R33): OX, UX, ZX, XX and the Invalid Operation bits. -/
def statusBits : List Nat := [35, 36, 37, 38] ++ invalidBits

/-- VX as R35 defines it. -/
def vxOf (v : BitVec 64) : Bool := invalidBits.any (bitAt v)

/-- FEX as R34 defines it, of a register whose VX is `vxOf`. -/
def fexOf (v : BitVec 64) : Bool :=
  (vxOf v && bitAt v 56) || (bitAt v 35 && bitAt v 57) || (bitAt v 36 && bitAt v 58) || (bitAt v 37 && bitAt v 59)
    || (bitAt v 38 && bitAt v 60)

/-- VX and FEX recomputed from the other bits (10_state.md R34, R35). -/
def recomputeSummaries (v : BitVec 64) : BitVec 64 := setBitAt (setBitAt v 34 (vxOf v)) 33 (fexOf v)

/-- The arguments of `Commit` (41_dfp_execution_model.md R205); `none` stands for "unchanged". -/
structure Commit where
  exc : List Exc := []
  fi : Option Bool := none
  fr : Option Bool := none
  fprf : Option (BitVec 5) := none
  fpcc : Option (BitVec 4) := none
  deriving DecidableEq, Repr

/-- The status bits of the exceptions set to 1. -/
def setExcBits (exc : List Exc) (v : BitVec 64) : BitVec 64 := exc.foldl (fun v x => setBitAt v x.bit true) v

/-- FI, and XX ORed with it (10_state.md R37). -/
def writeFI (fi : Option Bool) (v : BitVec 64) : BitVec 64 :=
  match fi with
  | none => v
  | some b => setBitAt (setBitAt v 46 b) 38 (bitAt v 38 || b)

/-- FR (10_state.md R39). -/
def writeFR (fr : Option Bool) (v : BitVec 64) : BitVec 64 :=
  match fr with
  | none => v
  | some b => setBitAt v 45 b

/-- FPRF, bits 47:51 (10_state.md R40). -/
def writeFPRF (fprf : Option (BitVec 5)) (v : BitVec 64) : BitVec 64 :=
  match fprf with
  | none => v
  | some x => setBits v 47 (bitsOf5 x)

/-- FPCC, bits 48:51; bit 47 stays (10_state.md R41). -/
def writeFPCC (fpcc : Option (BitVec 4)) (v : BitVec 64) : BitVec 64 :=
  match fpcc with
  | none => v
  | some x => setBits v 48 (bitsOf4 x)

/-- FX set to 1 when a status bit went from 0 to 1 (10_state.md R33). -/
def writeFX (old v : BitVec 64) : BitVec 64 :=
  if statusBits.any (fun i => bitAt v i && !bitAt old i) then setBitAt v 32 true else v

/-- The FPSCR after `Commit` (41_dfp_execution_model.md R205). -/
def commitFpscr (c : Commit) (old : BitVec 64) : BitVec 64 :=
  recomputeSummaries (writeFX old (writeFPCC c.fpcc (writeFPRF c.fprf (writeFR c.fr (writeFI c.fi
    (setExcBits c.exc old))))))

/-- `enabledNow` of R205: the kinds of the exceptions that occurred and are enabled. -/
def enabledNow (exc : List Exc) (fpscr : BitVec 64) : List ExcKind := (exc.map Exc.kind).filter (enabled fpscr)

/-- The FPSCR bits a `Commit` writes (41_dfp_execution_model.md R205), FX, FEX and VX among them. -/
def commitMask (c : Commit) : BitVec 64 :=
  maskOf ([32, 33, 34] ++ c.exc.map Exc.bit
    ++ (if c.fi.isSome then [38, 46] else []) ++ (if c.fr.isSome then [45] else [])
    ++ (if c.fprf.isSome then [47, 48, 49, 50, 51] else []) ++ (if c.fpcc.isSome then [48, 49, 50, 51] else []))

/-- FPSCR[32:35] = FX, FEX, VX, OX, what a record form copies to CR field 1 (10_state.md R47). -/
def recordBits (fpscr : BitVec 64) : BitVec 4 := slice fpscr 32 35

/-- The four settings of FE0 and FE1 (60_exceptions.md R375). -/
inductive ExcMode where
  | ignoreExceptions | impreciseNonrecoverable | impreciseRecoverable | precise
  deriving DecidableEq, Repr

/-- The exception mode of FE0 || FE1 (60_exceptions.md R375). -/
def excModeOf (feMode : BitVec 2) : ExcMode :=
  match feMode.getMsbD 0, feMode.getMsbD 1 with
  | false, false => .ignoreExceptions
  | false, true => .impreciseNonrecoverable
  | true, false => .impreciseRecoverable
  | true, true => .precise

end Sys2Proof.Machine
end

