-- ==== Sys2Proof/Machine/Formats.lean ====
section
/-! DEFINITION. The DFP data formats, their decoding and encoding, and the data classes (spec/40_dfp_formats.md). Encoded
values are numbers below 2 ^ width, read from the left as 00_scope.md R9 numbers their bits. -/

namespace Sys2Proof.Machine

/-- The three DFP formats (40_dfp_formats.md R126). -/
inductive Format where
  | dfp32 | dfp64 | dfp128
  deriving DecidableEq, Repr

/-- Width in bits (R131). -/
def Format.width : Format → Nat
  | .dfp32 => 32
  | .dfp64 => 64
  | .dfp128 => 128

/-- Bits of the biased exponent continuation field (R131). -/
def Format.becw : Format → Nat
  | .dfp32 => 6
  | .dfp64 => 8
  | .dfp128 => 12

/-- DPD blocks of the coefficient continuation field (R131). -/
def Format.ndec : Format → Nat
  | .dfp32 => 2
  | .dfp64 => 5
  | .dfp128 => 11

/-- Precision in digits (R131). -/
def Format.prec : Format → Nat
  | .dfp32 => 7
  | .dfp64 => 16
  | .dfp128 => 34

/-- Exponent bias (R131). -/
def Format.bias : Format → Int
  | .dfp32 => 101
  | .dfp64 => 398
  | .dfp128 => 6176

/-- Largest biased exponent (R131). -/
def Format.maxBiased : Format → Int
  | .dfp32 => 191
  | .dfp64 => 767
  | .dfp128 => 12287

/-- Smallest exponent (R131). -/
def Format.xmin (F : Format) : Int := -F.bias

/-- Largest exponent (R131). -/
def Format.xmax (F : Format) : Int := F.maxBiased - F.bias

/-- A decoded DFP value (R125): a finite number is a form (coefficient, exponent), never a value alone (R124); a special
keeps the decimal value of its CC field. The Bool is the sign, true for minus (R128). -/
inductive Dfp where
  | fin (s : Bool) (c : Nat) (e : Int)
  | inf (s : Bool) (cc : Nat)
  | qnan (s : Bool) (cc : Nat)
  | snan (s : Bool) (cc : Nat)
  deriving DecidableEq, Repr

/-- The sign of a value, whatever its class (R128). -/
def Dfp.sign : Dfp → Bool
  | .fin s _ _ | .inf s _ | .qnan s _ | .snan s _ => s

/-- The default quiet NaN (R143). -/
def defaultNaN : Dfp := .qnan false 0

/-- A value that format F can hold (R125). -/
def Dfp.fits (F : Format) : Dfp → Bool
  | .fin _ c e => decide (c < 10 ^ F.prec) && decide (F.xmin ≤ e) && decide (e ≤ F.xmax)
  | .inf _ cc | .qnan _ cc | .snan _ cc => decide (cc < 10 ^ (F.prec - 1))

/-- The value 8a + 4b + 2c + d of a BCD digit. -/
def bcdDigit (a b c d : Bool) : Nat := 8 * a.toNat + 4 * b.toNat + 2 * c.toNat + d.toNat

/-- The value of three BCD digits. -/
def digits3 (d2 d1 d0 : Nat) : Nat := 100 * d2 + 10 * d1 + d0

/-- The table of R133 on the ten bits of a DPD block. -/
def dpdDecodeBits (p q r s t u v w x y : Bool) : Nat :=
  match v, w, x with
  | false, _, _ => digits3 (bcdDigit false p q r) (bcdDigit false s t u) (bcdDigit false w x y)
  | true, false, false => digits3 (bcdDigit false p q r) (bcdDigit false s t u) (bcdDigit true false false y)
  | true, false, true => digits3 (bcdDigit false p q r) (bcdDigit true false false u) (bcdDigit false s t y)
  | true, true, false => digits3 (bcdDigit true false false r) (bcdDigit false s t u) (bcdDigit false p q y)
  | true, true, true =>
    match s, t with
    | false, false => digits3 (bcdDigit true false false r) (bcdDigit true false false u) (bcdDigit false p q y)
    | false, true => digits3 (bcdDigit true false false r) (bcdDigit false p q u) (bcdDigit true false false y)
    | true, false => digits3 (bcdDigit false p q r) (bcdDigit true false false u) (bcdDigit true false false y)
    | true, true => digits3 (bcdDigit true false false r) (bcdDigit true false false u) (bcdDigit true false false y)

/-- DPD decode: the three-digit value of a ten-bit block (R133). -/
def dpdDecode (n : Nat) : Nat :=
  dpdDecodeBits (n.testBit 9) (n.testBit 8) (n.testBit 7) (n.testBit 6) (n.testBit 5) (n.testBit 4) (n.testBit 3)
    (n.testBit 2) (n.testBit 1) (n.testBit 0)

/-- The ten bits p to y of a DPD block as a number. -/
def dpdBlock (p q r s t u v w x y : Bool) : Nat :=
  512 * p.toNat + 256 * q.toNat + 128 * r.toNat + 64 * s.toNat + 32 * t.toNat + 16 * u.toNat + 8 * v.toNat
    + 4 * w.toNat + 2 * x.toNat + y.toNat

/-- The table of R134 on the bits of three BCD digits abcd, efgh, ijkm. -/
def dpdEncodeBits (a b c d e f g h i j k m : Bool) : Nat :=
  match a, e, i with
  | false, false, false => dpdBlock b c d f g h false j k m
  | false, false, true => dpdBlock b c d f g h true false false m
  | false, true, false => dpdBlock b c d j k h true false true m
  | true, false, false => dpdBlock j k d f g h true true false m
  | true, true, false => dpdBlock j k d false false h true true true m
  | true, false, true => dpdBlock f g d false true h true true true m
  | false, true, true => dpdBlock b c d true false h true true true m
  | true, true, true => dpdBlock false false d true true h true true true m

/-- DPD encode: the preferred ten-bit block of a three-digit value (R134). -/
def dpdEncode (n : Nat) : Nat :=
  let d2 := n / 100 % 10
  let d1 := n / 10 % 10
  let d0 := n % 10
  dpdEncodeBits (d2.testBit 3) (d2.testBit 2) (d2.testBit 1) (d2.testBit 0)
    (d1.testBit 3) (d1.testBit 2) (d1.testBit 1) (d1.testBit 0)
    (d0.testBit 3) (d0.testBit 2) (d0.testBit 1) (d0.testBit 0)

/-- The decimal value of the rightmost k DPD blocks of w (the sum for cc in R135). -/
def decodeCC : Nat → Nat → Nat
  | 0, _ => 0
  | k + 1, w => decodeCC k (w / 1024) * 1000 + dpdDecode (w % 1024)

/-- The k preferred DPD blocks of the 3k digits of cc, most significant block first (R137). -/
def encodeCC : Nat → Nat → Nat
  | 0, _ => 0
  | k + 1, cc => encodeCC k (cc / 1000) * 1024 + dpdEncode (cc % 1000)

/-- The two leftmost bits of the biased exponent that a combination field of a finite number holds (R129). -/
def combTop2 (C : Nat) : Nat := if C / 8 = 3 then C / 2 % 4 else C / 8

/-- The leftmost digit of the coefficient that a combination field of a finite number holds (R129). -/
def combLmd (C : Nat) : Nat := if C / 8 = 3 then 8 + C % 2 else C % 8

/-- The combination field of a finite number (R129, R137). -/
def combOf (top2 lmd : Nat) : Nat := if lmd < 8 then top2 * 8 + lmd else 24 + top2 * 2 + (lmd - 8)

/-- `Decode_F` (R135): every bit pattern decodes. -/
def decodeDfp (F : Format) (w : Nat) : Dfp :=
  let ccw := 10 * F.ndec
  let s := w / 2 ^ (F.width - 1) % 2 == 1
  let C := w / 2 ^ (ccw + F.becw) % 32
  let bec := w / 2 ^ ccw % 2 ^ F.becw
  let cc := decodeCC F.ndec (w % 2 ^ ccw)
  if C = 31 then (if bec / 2 ^ (F.becw - 1) = 1 then .snan s cc else .qnan s cc)
  else if C = 30 then .inf s cc
  else .fin s (combLmd C * 10 ^ (F.prec - 1) + cc) ((combTop2 C * 2 ^ F.becw + bec : Nat) - F.bias)

/-- The bit string s || C || bec || DPD blocks of cc, as a number (R127, R137). -/
def packDfp (F : Format) (s : Bool) (C bec cc : Nat) : Nat :=
  s.toNat * 2 ^ (F.width - 1) + C * 2 ^ (10 * F.ndec + F.becw) + bec * 2 ^ (10 * F.ndec) + encodeCC F.ndec cc

/-- `Encode_F` (R137), for a value that fits F. Specials get zero BEC bits but for the SNaN bit. -/
def encodeDfp (F : Format) : Dfp → Nat
  | .fin s c e =>
    let be := (e + F.bias).toNat
    packDfp F s (combOf (be / 2 ^ F.becw) (c / 10 ^ (F.prec - 1))) (be % 2 ^ F.becw) (c % 10 ^ (F.prec - 1))
  | .inf s cc => packDfp F s 30 0 cc
  | .qnan s cc => packDfp F s 31 0 cc
  | .snan s cc => packDfp F s 31 (2 ^ (F.becw - 1)) cc

/-- The digit count by repeated halving of the length: right for n < 10 ^ 2 ^ k. -/
def digitsFrom : Nat → Nat → Nat
  | 0, n => if n = 0 then 0 else 1
  | k + 1, n => if n < 10 ^ 2 ^ k then digitsFrom k n else 2 ^ k + digitsFrom k (n / 10 ^ 2 ^ k)

/-- The number of decimal digits of n, and 0 for 0 (00_scope.md R12). -/
def digits (n : Nat) : Nat := digitsFrom (n.log2.log2 + 1) n

/-- Trailing zeros among the last `fuel` digits of n. -/
def trailingZeros : Nat → Nat → Nat
  | 0, _ => 0
  | fuel + 1, n => if n % 10 = 0 then trailingZeros fuel (n / 10) + 1 else 0

/-- The number of trailing decimal zeros of a positive n (00_scope.md R12). -/
def tz (n : Nat) : Nat := trailingZeros (digits n) n

/-- The six data classes, in the order of the mask bits of 44_test.md R251 (R140). -/
inductive DataClass where
  | zero | subnormal | normal | infinity | quietNaN | signalingNaN
  deriving DecidableEq, Repr

/-- Whether a nonzero finite number is subnormal in F (R140). -/
def isSubnormal (F : Format) (c : Nat) (e : Int) : Bool := decide ((digits c : Int) + e < F.xmin + F.prec)

/-- The class of a value in format F (R140). -/
def Dfp.dataClass (F : Format) : Dfp → DataClass
  | .fin _ c e => if c = 0 then .zero else if isSubnormal F c e then .subnormal else .normal
  | .inf _ _ => .infinity
  | .qnan _ _ => .quietNaN
  | .snan _ _ => .signalingNaN

/-- FPRF for a result delivered in format F (R141, 10_state.md R40). -/
def fprfOf (F : Format) (d : Dfp) : BitVec 5 :=
  match d.dataClass F, d.sign with
  | .signalingNaN, _ => 0b00001#5
  | .quietNaN, _ => 0b10001#5
  | .infinity, true => 0b01001#5
  | .normal, true => 0b01000#5
  | .subnormal, true => 0b11000#5
  | .zero, true => 0b10010#5
  | .zero, false => 0b00010#5
  | .subnormal, false => 0b10100#5
  | .normal, false => 0b00100#5
  | .infinity, false => 0b00101#5

/-- A normal number's FPRF, by sign (R141; 41_dfp_execution_model.md R206 `forceNormal`). -/
def fprfNormal (s : Bool) : BitVec 5 := if s then 0b01000#5 else 0b00100#5

/-- `P(x)` and `U(x)`: the QNaN with the sign and payload of a NaN (R144). Other values stay as they are. -/
def Dfp.toQNaN : Dfp → Dfp
  | .snan s cc => .qnan s cc
  | .qnan s cc => .qnan s cc
  | .inf s cc => .inf s cc
  | .fin s c e => .fin s c e

/-- Whether a value is a signaling NaN. -/
def Dfp.isSNaN : Dfp → Bool
  | .snan _ _ => true
  | .fin _ _ _ | .inf _ _ | .qnan _ _ => false

/-- Whether a value is a NaN. -/
def Dfp.isNaN : Dfp → Bool
  | .snan _ _ | .qnan _ _ => true
  | .fin _ _ _ | .inf _ _ => false

/-- `PickNaN` (R145), for two operands of which one at least is a NaN. -/
def pickNaN (a b : Dfp) : Dfp :=
  if a.isSNaN then a.toQNaN
  else if b.isSNaN then b.toQNaN
  else if a.isNaN then a.toQNaN
  else b.toQNaN

end Sys2Proof.Machine
end

