-- ==== Sys2Proof/WellFormed.lean ====
section
/-! DEFINITION. When an instruction is well formed: every field that names a floating-point register pair holds an even
number (30_encoding.md R103, 10_state.md R23). Every other field is bounded by its type (R86, R106). -/

namespace Sys2Proof

/-- Whether a register number may name an even-odd pair (10_state.md R22). -/
def FReg.isEven (r : FReg) : Bool := r.val % 2 == 0

/-- The fields of an instruction that name register pairs: the table of 30_encoding.md R103. -/
def Instr.pairFields : Instr → List FReg
  | .dadd _ _ _ _ => []
  | .daddq frt fra frb _ => [frt, fra, frb]
  | .dsub _ _ _ _ => []
  | .dsubq frt fra frb _ => [frt, fra, frb]
  | .dmul _ _ _ _ => []
  | .dmulq frt fra frb _ => [frt, fra, frb]
  | .ddiv _ _ _ _ => []
  | .ddivq frt fra frb _ => [frt, fra, frb]
  | .dcmpu _ _ _ => []
  | .dcmpuq _ fra frb => [fra, frb]
  | .dcmpo _ _ _ => []
  | .dcmpoq _ fra frb => [fra, frb]
  | .dtstdc _ _ _ => []
  | .dtstdcq _ fra _ => [fra]
  | .dtstdg _ _ _ => []
  | .dtstdgq _ fra _ => [fra]
  | .dtstex _ _ _ => []
  | .dtstexq _ fra frb => [fra, frb]
  | .dtstsf _ _ _ => []
  | .dtstsfq _ _ frb => [frb]
  | .dquai _ _ _ _ _ => []
  | .dquaiq frt _ frb _ _ => [frt, frb]
  | .dqua _ _ _ _ _ => []
  | .dquaq frt fra frb _ _ => [frt, fra, frb]
  | .drrnd _ _ _ _ _ => []
  | .drrndq frt _ frb _ _ => [frt, frb]
  | .drintx _ _ _ _ _ => []
  | .drintxq frt _ frb _ _ => [frt, frb]
  | .drintn _ _ _ _ _ => []
  | .drintnq frt _ frb _ _ => [frt, frb]
  | .dctdp _ _ _ => []
  | .dctqpq frt _ _ => [frt]
  | .drsp _ _ _ => []
  | .drdpq frt frb _ => [frt, frb]
  | .dcffixq frt _ _ => [frt]
  | .dctfix _ _ _ => []
  | .dctfixq _ frb _ => [frb]
  | .ddedpd _ _ _ _ _ => []
  | .ddedpdq frt _ _ frb _ => [frt, frb]
  | .denbcd _ _ _ _ => []
  | .denbcdq frt _ frb _ => [frt, frb]
  | .dxex _ _ _ => []
  | .dxexq _ frb _ => [frb]
  | .diex _ _ _ _ => []
  | .diexq frt _ frb _ => [frt, frb]
  | .dscli _ _ _ _ => []
  | .dscliq frt fra _ _ => [frt, fra]
  | .dscri _ _ _ _ => []
  | .dscriq frt fra _ _ => [frt, fra]

/-- An instruction is well formed when no pair field is odd (30_encoding.md R103). -/
def Instr.wellFormed (i : Instr) : Bool := i.pairFields.all FReg.isEven

end Sys2Proof
end

