-- ==== Sys2Proof/Machine/Operands.lean ====
section
/-! DEFINITION. How an instruction reads its register operands and where its result goes (spec/10_state.md R20 to R26,
30_encoding.md R99). -/

namespace Sys2Proof.Machine

/-- FPR[r] (10_state.md R20). -/
def readFpr (s : State) (r : FReg) : Doubleword := s.fpr[r]

/-- The next higher-numbered register, the odd one of the pair of an even r (10_state.md R22). -/
def oddOf (r : FReg) : FReg := r + 1

/-- FPRp[r] = FPR[r] || FPR[r+1], for even r (10_state.md R22). -/
def readPair (s : State) (r : FReg) : BitVec 128 := readFpr s r ++ readFpr s (oddOf r)

/-- FPR[r] as a signed 64-bit integer (40_dfp_formats.md R120). -/
def readInt (s : State) (r : FReg) : Int := (readFpr s r).toInt

/-- Bits 58:63 of FPR[r], the referenced significance (44_test.md R259, 45_quantum_adjustment.md R278). -/
def readSignificance (s : State) (r : FReg) : Nat := (readFpr s r).toNat % 64

/-- The bits of the operand of format F that register field r designates (10_state.md R22, R24, R25). -/
def sourceBits (F : Format) (s : State) (r : FReg) : Nat :=
  match F with
  | .dfp32 => (readFpr s r).toNat % 2 ^ 32
  | .dfp64 => (readFpr s r).toNat
  | .dfp128 => (readPair s r).toNat

/-- The decoded DFP operand of format F that register field r designates (40_dfp_formats.md R135). -/
def sourceDfp (F : Format) (s : State) (r : FReg) : Dfp := decodeDfp F (sourceBits F s r)

/-- The registers that hold a 128-bit value w in the pair of r (10_state.md R22). -/
def pairWrites (r : FReg) (w : Nat) : List (FReg × Doubleword) :=
  [(r, BitVec.ofNat 64 (w / 2 ^ 64)), (oddOf r, BitVec.ofNat 64 w)]

/-- The registers a target FRT[p] of format F writes for the bits w (10_state.md R22, R24). A DFP32 value is the right half
of a register; the one instruction with such a target, `drsp`, fills the left half itself (46_conversion.md R303). -/
def targetWrites (F : Format) (r : FReg) (w : Nat) : List (FReg × Doubleword) :=
  match F with
  | .dfp32 => [(r, BitVec.ofNat 64 w)]
  | .dfp64 => [(r, BitVec.ofNat 64 w)]
  | .dfp128 => pairWrites r w

/-- The writes of FRT[p] <- Encode_F(d). -/
def dfpWrites (F : Format) (r : FReg) (d : Dfp) : List (FReg × Doubleword) := targetWrites F r (encodeDfp F d)

/-- Whether every field that names a pair is even (30_encoding.md R103). -/
def pairsEven (rs : List FReg) : Bool := rs.all FReg.isEven

/-- A quad instruction whose pair fields are rs: refused as an invalid form when one is odd (30_encoding.md R103). -/
def onPairs (rs : List FReg) (a : Answer) : Answer := if pairsEven rs then a else .refused .invalidForm

end Sys2Proof.Machine
end

