-- ==== Sys2Proof/Machine/Rounding.lean ====
section
/-! DEFINITION. Rounding modes, rounding, ideal exponents and the delivery of a finite result
(spec/41_dfp_execution_model.md R160 to R200). -/

namespace Sys2Proof.Machine

/-- The eight rounding modes (10_state.md R32, 41_dfp_execution_model.md R163, abbreviated as in 00_scope.md R18). -/
inductive RMode where
  | rne | rtz | rtpi | rtmi | rnaz | rntz | rafz | rfsp
  deriving DecidableEq, Repr

/-- The mode of FPSCR.DRN, bits 29:31 (10_state.md R32). -/
def drnMode (fpscr : BitVec 64) : RMode :=
  match bitAt fpscr 29, bitAt fpscr 30, bitAt fpscr 31 with
  | false, false, false => .rne
  | false, false, true => .rtz
  | false, true, false => .rtpi
  | false, true, true => .rtmi
  | true, false, false => .rnaz
  | true, false, true => .rntz
  | true, true, false => .rafz
  | true, true, true => .rfsp

/-- `RMCMode(R, RMC)` (30_encoding.md R88). -/
def rmcMode (r : Bool) (rmc : Fin 4) (fpscr : BitVec 64) : RMode :=
  match r, rmc with
  | false, 0 => .rne
  | false, 1 => .rtz
  | false, 2 => .rnaz
  | false, 3 => drnMode fpscr
  | true, 0 => .rtpi
  | true, 1 => .rtmi
  | true, 2 => .rafz
  | true, 3 => .rntz

/-- An integer that a magnitude was rounded to, and whether the rounding was inexact and whether it incremented (R166). -/
structure RoundedInt where
  n : Nat
  inexact : Bool
  incremented : Bool
  deriving DecidableEq, Repr

/-- Whether a magnitude q0 + rem / den with rem > 0, of a number of sign s, is rounded up (R166). -/
def roundsUp (mode : RMode) (s : Bool) (q0 rem den : Nat) : Bool :=
  match mode with
  | .rne => decide (den < 2 * rem) || (decide (2 * rem = den) && decide (q0 % 2 = 1))
  | .rtz => false
  | .rtpi => !s
  | .rtmi => s
  | .rnaz => decide (den ≤ 2 * rem)
  | .rntz => decide (den < 2 * rem)
  | .rafz => true
  | .rfsp => decide (q0 % 10 = 0) || decide (q0 % 10 = 5)

/-- `RoundInt` of the magnitude num / den, den > 0 (R166). -/
def roundInt (mode : RMode) (s : Bool) (num den : Nat) : RoundedInt :=
  if num % den = 0 then { n := num / den, inexact := false, incremented := false }
  else if roundsUp mode s (num / den) (num % den) den then
    { n := num / den + 1, inexact := true, incremented := true }
  else { n := num / den, inexact := true, incremented := false }

/-- The positive rational num / den times ten to the exp: an exact intermediate result (R160). -/
structure Mag where
  num : Nat
  den : Nat
  exp : Int
  deriving DecidableEq, Repr

/-- `v × 10 ^ k`. -/
def Mag.scale (v : Mag) (k : Int) : Mag := { v with exp := v.exp + k }

/-- The numerator of v / 10 ^ e. -/
def Mag.numAt (v : Mag) (e : Int) : Nat := v.num * 10 ^ (v.exp - e).toNat

/-- The denominator of v / 10 ^ e. -/
def Mag.denAt (v : Mag) (e : Int) : Nat := v.den * 10 ^ (e - v.exp).toNat

/-- The floor of the decimal logarithm of v. -/
def Mag.floorLog10 (v : Mag) : Int :=
  let k := (digits v.num : Int) - digits v.den
  if v.den * 10 ^ k.toNat ≤ v.num * 10 ^ (-k).toNat then v.exp + k else v.exp + k - 1

/-- A coefficient and exponent that a magnitude was rounded to (R175). -/
structure RoundedP where
  c : Nat
  e : Int
  inexact : Bool
  incremented : Bool
  deriving DecidableEq, Repr

/-- v rounded to an integer multiple of 10 ^ e. -/
def roundAt (mode : RMode) (s : Bool) (v : Mag) (e : Int) : RoundedInt := roundInt mode s (v.numAt e) (v.denAt e)

/-- The exponent at which v has exactly P integer digits (R175). -/
def Mag.precExp (v : Mag) (P : Nat) : Int := v.floorLog10 - (P - 1)

/-- `RoundP`: v rounded to P significant digits with unbounded exponent range (R175). -/
def roundP (P : Nat) (mode : RMode) (s : Bool) (v : Mag) : RoundedP :=
  let r := roundAt mode s v (v.precExp P)
  if r.n = 10 ^ P then
    { c := 10 ^ (P - 1), e := v.precExp P + 1, inexact := r.inexact, incremented := r.incremented }
  else { c := r.n, e := v.precExp P, inexact := r.inexact, incremented := r.incremented }

/-- `clamp(x, lo, hi)` (00_scope.md R12). -/
def clamp (x lo hi : Int) : Int := max lo (min x hi)

/-- The exponent `SelectForm` picks for c × 10 ^ e (R176). -/
def selectExp (c : Nat) (e : Int) (inexact : Bool) (ideal hi : Int) : Int :=
  if inexact || c == 0 then e else clamp ideal e (min (e + tz c) hi)

/-- `SelectForm`: the form of c × 10 ^ e whose exponent is closest to the ideal one, not above hi (R176). -/
def selectForm (s : Bool) (c : Nat) (e : Int) (inexact : Bool) (ideal hi : Int) : Dfp :=
  let e' := selectExp c e inexact ideal hi
  .fin s (c / 10 ^ (e' - e).toNat) e'

/-- What `Deliver` answers (R180). -/
structure Delivered where
  d : Dfp
  fi : Bool
  fr : Bool
  exc : List Exc
  /-- The wrapped result of an enabled overflow or underflow: FPRF is that of a normal number (R206). -/
  forceNormal : Bool
  deriving DecidableEq, Repr

/-- {XX} if inexact. -/
def xxIf (inexact : Bool) : List Exc := if inexact then [.xx] else []

/-- The largest coefficient of a format (R197: Nmax is Fin(s, 10^p - 1, Xmax)). -/
def Format.maxCoef (F : Format) : Nat := 10 ^ F.prec - 1

/-- Whether a disabled overflow delivers an infinity (R197). -/
def overflowsToInf (mode : RMode) (s : Bool) : Bool :=
  match mode with
  | .rne | .rnaz | .rntz | .rafz => true
  | .rtpi => !s
  | .rtmi => s
  | .rtz | .rfsp => false

/-- The wrapped rounded result of an enabled overflow (shift = -alpha) or underflow (shift = alpha), delivered in a format
whose largest exponent is hi (R180, R196, R198). -/
def deliverWrapped (F : Format) (hi : Int) (s : Bool) (v : Mag) (ideal : Int) (mode : RMode) (shift : Int) (x : Exc) :
    Delivered :=
  let q := roundP F.prec mode s (v.scale shift)
  { d := selectForm s q.c q.e q.inexact (ideal + shift) hi, fi := q.inexact, fr := q.incremented,
    exc := x :: xxIf q.inexact, forceNormal := true }

/-- The result of a disabled overflow (R197). -/
def deliverOverflow (F : Format) (s : Bool) (mode : RMode) : Delivered :=
  if overflowsToInf mode s then { d := .inf s 0, fi := true, fr := true, exc := [.ox, .xx], forceNormal := false }
  else { d := .fin s F.maxCoef F.xmax, fi := true, fr := false, exc := [.ox, .xx], forceNormal := false }

/-- The result of a tiny value with underflow disabled: rounded at the quantum of Dmin (R180, R198). -/
def deliverTiny (F : Format) (s : Bool) (v : Mag) (ideal : Int) (mode : RMode) : Delivered :=
  let r := roundAt mode s v F.xmin
  if r.inexact then { d := .fin s r.n F.xmin, fi := true, fr := r.incremented, exc := [.ux, .xx], forceNormal := false }
  else { d := selectForm s r.n F.xmin false ideal F.xmax, fi := false, fr := false, exc := [], forceNormal := false }

/-- The result of a value in the normal range (R180). -/
def deliverNormal (F : Format) (s : Bool) (q : RoundedP) (ideal : Int) : Delivered :=
  { d := selectForm s q.c q.e q.inexact ideal F.xmax, fi := q.inexact, fr := q.incremented, exc := xxIf q.inexact,
    forceNormal := false }

/-- `Deliver` (R180): the final result of the finite nonzero value v of sign s in format F. `wrapHi` is the largest
exponent of the format a wrapped result is delivered in, `alpha` the wrap adjustment of R196. -/
def deliver (F : Format) (wrapHi : Int) (s : Bool) (v : Mag) (ideal : Int) (mode : RMode) (alpha : Int)
    (fpscr : BitVec 64) : Delivered :=
  let q := roundP F.prec mode s v
  if F.xmax < q.e then
    if enabled fpscr .overflow then deliverWrapped F wrapHi s v ideal mode (-alpha) .ox else deliverOverflow F s mode
  else if v.precExp F.prec < F.xmin then
    if enabled fpscr .underflow then deliverWrapped F wrapHi s v ideal mode alpha .ux
    else deliverTiny F s v ideal mode
  else deliverNormal F s q ideal

end Sys2Proof.Machine
end

