-- ==== Sys2Proof/Machine/Ops.lean ====
section
/-! DEFINITION. The operations every meaning is made of: storage, register writes, retiring an instruction with the FPSCR
update and the raising of enabled exceptions, and the host's actions (spec/20_memory.md R61, R66;
41_dfp_execution_model.md R205 to R209; 60_exceptions.md R376 to R378; 70_reset_and_hazards.md R405, R410). -/

namespace Sys2Proof.Machine

/-! ### Storage -/

/-- The value of the byte at address a, if it has one (log entry 2). -/
def readByte (m : List Host.Cell) (a : Nat) : Option Byte :=
  match m with
  | [] => none
  | (k, b) :: rest => if a = k then some b else if a < k then none else readByte rest a

/-- The byte at address a set to b, the addresses kept rising. -/
def writeByte (m : List Host.Cell) (a : Nat) (b : Byte) : List Host.Cell :=
  match m with
  | [] => [(a, b)]
  | (k, c) :: rest =>
    if a < k then (a, b) :: (k, c) :: rest
    else if a = k then (a, b) :: rest
    else (k, c) :: writeByte rest a b

/-- The canonical form of storage: addresses strictly rising and below 2^64 (20_memory.md R67; log entry 2). -/
def Memory.wf : List Host.Cell → Bool
  | [] => true
  | [(a, _)] => decide (a < 2 ^ 64)
  | (a, _) :: (b, y) :: rest => decide (a < b) && Memory.wf ((b, y) :: rest)

/-- `MemRead` of n bytes at a (20_memory.md R61): the bytes, lowest address first, or the first address without a value. -/
def memRead (m : List Host.Cell) (a : Addr) : Nat → Except Nat (List Byte)
  | 0 => .ok []
  | n + 1 =>
    match readByte m a.toNat with
    | none => .error a.toNat
    | some b =>
      match memRead m (a + 1) n with
      | .error e => .error e
      | .ok bs => .ok (b :: bs)

/-- `MemWrite` of a list of bytes at a, lowest address first (20_memory.md R61). -/
def memWrite (m : List Host.Cell) (a : Addr) : List Byte → List Host.Cell
  | [] => m
  | b :: bs => memWrite (writeByte m a.toNat b) (a + 1) bs

/-! ### Updates of the state -/

/-- FPR[r] <- v (10_state.md R20). -/
def State.setFpr (s : State) (r : FReg) (v : Doubleword) : State := { s with fpr := s.fpr.set r v }

/-- The writes of a list, in its order. -/
def State.writeFprs (s : State) (ws : List (FReg × Doubleword)) : State :=
  ws.foldl (fun t w => t.setFpr w.1 w.2) s

/-- CR[f] <- v (10_state.md R46). -/
def State.setCr (s : State) (f : CRField) (v : BitVec 4) : State := { s with cr := s.cr.set f v }

/-- The FPSCR replaced. -/
def State.setFpscr (s : State) (v : BitVec 64) : State := { s with fpscr := v }

/-- pc <- a (10_state.md R50). -/
def State.setPc (s : State) (a : Addr) : State := { s with pc := a }

/-- The next free value (log entry 3). -/
def State.drawFree (s : State) : State := { s with freeCount := s.freeCount + 1 }

/-- The address of the next instruction, modulo 2^64 (10_state.md R50, 20_memory.md R67). -/
def nextPc (s : State) : Addr := s.pc + 4

/-! ### Exceptions -/

/-- The enabled exception handler is invoked at address a: the outcome Trap(FPEnabled, a) (60_exceptions.md R377). "nothing
else is changed", but for `pending`, cleared when a pending exception is the one delivered (R378). It is cleared too, with
what is recorded, when the Trap is that of an instruction which itself excepts in Precise Mode while an earlier exception is
still pending, the mode having changed since: one Trap stands for both (DESIGN CHOICE, log entry 19). -/
def takeTrap (a : Addr) (s : State) : State :=
  { s with trapAt := some a, pending := false, pendingFprs := [], pendingFpscr := 0 }

/-- The enabled exception is noted for later delivery, with what the excepting instruction wrote (60_exceptions.md R378). -/
def makePending (fprs : List FReg) (mask : BitVec 64) (s : State) : State :=
  { s with pending := true, pendingFprs := fprs ++ s.pendingFprs, pendingFpscr := mask ||| s.pendingFpscr }

/-- TAKING AN EXCEPTION: `raise FPEnabledException` (60_exceptions.md R377), the one operation all raising goes through.
`s` has all the state changes of the instruction at s.pc but its advance; `cont` is where the machine continues if it does;
fprs and mask are what the instruction wrote. `n` picks the free choice of R378 in the imprecise modes (log entry 4). -/
def raiseEnabled (fprs : List FReg) (mask : BitVec 64) (cont : Addr) (n : Nat) (s : State) : State :=
  match excModeOf s.feMode with
  | .ignoreExceptions => s.setPc cont
  | .precise => takeTrap s.pc s
  | .impreciseNonrecoverable | .impreciseRecoverable =>
    if Config.trapAtOnce n then takeTrap s.pc s else (makePending fprs mask s).setPc cont

/-- The return from the handler as the spec gives it, `Resume(pc')` (70_reset_and_hazards.md R405): "after a Trap outcome:
continue at pc' with pending = false". Without a Trap outcome it does nothing. -/
def resume (a : Addr) (s : State) : State :=
  match s.trapAt with
  | none => s
  | some _ => { s with trapAt := none, pending := false, pendingFprs := [], pendingFpscr := 0, pc := a }

/-! ### Retiring an instruction -/

/-- What an instruction does once its operands are read and its result is computed (41_dfp_execution_model.md R209). -/
structure Effect where
  /-- The register writes of FRT[p], none when the result is suppressed (R192). -/
  fprs : List (FReg × Doubleword) := []
  /-- The arguments of `Commit`; `none` for an instruction that calls none (R205, last paragraph). -/
  commit : Option Commit := none
  /-- The code written to CR[BF]. -/
  crBF : Option (CRField × BitVec 4) := none
  /-- The record bit (R208). -/
  rc : Bool := false
  deriving DecidableEq, Repr

/-- The FPSCR after an effect. -/
def Effect.fpscrAfter (e : Effect) (old : BitVec 64) : BitVec 64 :=
  match e.commit with
  | none => old
  | some c => commitFpscr c old

/-- The set `enabledNow` of an effect (R205). -/
def Effect.raised (e : Effect) (fpscr : BitVec 64) : List ExcKind :=
  match e.commit with
  | none => []
  | some c => enabledNow c.exc fpscr

/-- The FPSCR bits an effect writes. -/
def Effect.mask (e : Effect) : BitVec 64 :=
  match e.commit with
  | none => 0
  | some c => commitMask c

/-- The CR field an effect writes with its code. -/
def State.writeCrBF (s : State) (w : Option (CRField × BitVec 4)) : State :=
  match w with
  | none => s
  | some (f, v) => s.setCr f v

/-- CR[1] <- FPSCR[32:35] when Rc = 1 (R208). -/
def State.record (s : State) (rc : Bool) : State := if rc then s.setCr 1 (recordBits s.fpscr) else s

/-- Steps 3 to 5 of R209: the target, the FPSCR, the CR. -/
def applyEffect (e : Effect) (s : State) : State :=
  ((((s.writeFprs e.fprs).setFpscr (e.fpscrAfter s.fpscr)).writeCrBF e.crBF).record e.rc).drawFree

/-- The end of every instruction: its effect, then either the raise of step 6 of R209 or the advance of pc (10_state.md
R50). -/
def finish (e : Effect) (s : State) : State :=
  let t := applyEffect e s
  if (e.raised s.fpscr).isEmpty then t.setPc (nextPc s)
  else raiseEnabled (e.fprs.map Prod.fst) e.mask (nextPc s) s.freeCount t

/-- An instruction that runs always answers a next state (60_exceptions.md R381, R384). -/
def retire (e : Effect) (s : State) : Answer := .next (finish e s)

/-! ### Host actions (70_reset_and_hazards.md R405; log entries 11, 16 and 17) -/

/-- `SetFPR(i, v)`. -/
def hostSetFpr (i : FReg) (v : Doubleword) (s : State) : State := s.setFpr i v

/-- `GetFPR(i)`. -/
def hostGetFpr (i : FReg) (s : State) : Doubleword := readFpr s i

/-- `SetCR(f, v)`. -/
def hostSetCr (f : CRField) (v : BitVec 4) (s : State) : State := s.setCr f v

/-- `GetCR(f)`. -/
def hostGetCr (f : CRField) (s : State) : BitVec 4 := s.cr[f]

/-- `SetFEMode(m)`. An exception that is pending stays pending when the mode becomes Ignore Exceptions or Precise Mode: a
choice, 70_reset_and_hazards.md R410 and 92_eei_decisions.md D5 leave it open (log entry 17). -/
def hostSetFeMode (m : BitVec 2) (s : State) : State := { s with feMode := m }

/-- `GetFPSCR()`: takes a pending trap first (70_reset_and_hazards.md R410), in the state on the left, whatever the mode has
become since (log entry 17). -/
def hostGetFpscr (s : State) : State ⊕ BitVec 64 := if s.pending then .inl (takeTrap s.pc s) else .inr s.fpscr

/-- The FPSCR after `SetFPSCR(mask, v)`: the selected bits but FEX and VX, which are recomputed (R405). A selected reserved
bit (0:28, 52, 61) is held and written like any other: R405 only calls these bits reserved, and 93_implementation_defined.md
U4 lets a model fix 0:28 to 0 (DESIGN CHOICE, log entry 18). -/
def mergeFpscr (mask v old : BitVec 64) : BitVec 64 :=
  let m := mask &&& ~~~maskOf [33, 34]
  recomputeSummaries ((v &&& m) ||| (old &&& ~~~m))

/-- `SetFPSCR(mask, v)`: takes a pending trap first (R410), whatever the mode has become since (log entry 17); otherwise
writes, and with FEX then 1 counts as an instruction that raised an enabled exception (60_exceptions.md R376), the machine
continuing at the same pc (log entry 11). It does so in the trapped state too, before `resume`: an exception inside the
handler, of which 60_exceptions.md R383 says that D0 says nothing. Such a raise takes the Trap again, at the pc of the
trapped state, or leaves it pending, and `resume` drops it (DESIGN CHOICE, log entry 16). -/
def hostSetFpscr (mask v : BitVec 64) (s : State) : State :=
  if s.pending then takeTrap s.pc s
  else
    let t := s.setFpscr (mergeFpscr mask v s.fpscr)
    if fexOf t.fpscr then raiseEnabled [] (mask ||| maskOf [33, 34]) s.pc s.freeCount t.drawFree else t

end Sys2Proof.Machine
end

