-- ==== Sys2Proof/Machine/Outcomes.lean ====
section
/-! DEFINITION. The ends shared by the instructions that deliver a DFP result: invalid operation, zero divide, exact and
rounded results, each as the effect it has (spec/41_dfp_execution_model.md R192 to R199, 42_arithmetic.md R221,
45_quantum_adjustment.md R270). -/

namespace Sys2Proof.Machine

/-- The effect of an instruction that only writes FRT[p] and calls no `Commit` (41_dfp_execution_model.md R205). -/
def plainEffect (ws : List (FReg × Doubleword)) (rc : Bool) : Effect := { fprs := ws, rc := rc }

/-- An exact result d of format F with FI = FR = 0 and FPRF its class (42_arithmetic.md R221 `Exact`). -/
def exactEffect (F : Format) (frt : FReg) (rc : Bool) (d : Dfp) : Effect :=
  { fprs := dfpWrites F frt d
    commit := some { fi := some false, fr := some false, fprf := some (fprfOf F d) }
    rc := rc }

/-- An enabled invalid operation or zero divide: the target and FPRF are unchanged, FI = FR = 0 (R192, R193, R195). -/
def suppressedEffect (exc : List Exc) (rc : Bool) : Effect :=
  { commit := some { exc := exc, fi := some false, fr := some false }, rc := rc }

/-- A disabled invalid operation or zero divide: the target is d, FI = FR = 0 (R194, R195). -/
def defaultEffect (F : Format) (frt : FReg) (rc : Bool) (exc : List Exc) (d : Dfp) : Effect :=
  { fprs := dfpWrites F frt d
    commit := some { exc := exc, fi := some false, fr := some false, fprf := some (fprfOf F d) }
    rc := rc }

/-- An invalid operation whose disabled result is the quiet NaN q (R193, R194). -/
def invalidEffect (F : Format) (frt : FReg) (rc : Bool) (fpscr : BitVec 64) (exc : List Exc) (q : Dfp) : Effect :=
  if enabled fpscr .invalid then suppressedEffect exc rc else defaultEffect F frt rc exc q

/-- A zero divide of sign s (R195). -/
def zeroDivideEffect (F : Format) (frt : FReg) (rc : Bool) (fpscr : BitVec 64) (s : Bool) : Effect :=
  if enabled fpscr .zeroDivide then suppressedEffect [.zx] rc else defaultEffect F frt rc [.zx] (.inf s 0)

/-- FPRF of a delivered result (R206). -/
def deliveredFprf (F : Format) (r : Delivered) : BitVec 5 :=
  if r.forceNormal then fprfNormal r.d.sign else fprfOf F r.d

/-- A delivered result in format F (42_arithmetic.md R221 `Rounded`). -/
def deliveredEffect (F : Format) (frt : FReg) (rc : Bool) (r : Delivered) : Effect :=
  { fprs := dfpWrites F frt r.d
    commit := some { exc := r.exc, fi := some r.fi, fr := some r.fr, fprf := some (deliveredFprf F r) }
    rc := rc }

/-- A quantum-adjusted result (45_quantum_adjustment.md R270 `Result`). -/
def adjustedEffect (F : Format) (frt : FReg) (rc : Bool) (d : Dfp) (fi fr : Bool) : Effect :=
  { fprs := dfpWrites F frt d
    commit := some { exc := xxIf fi, fi := some fi, fr := some fr, fprf := some (fprfOf F d) }
    rc := rc }

/-- The effect of a compare or test instruction: the code in CR[BF] and FPCC (43_compare.md R241, 44_test.md R250). -/
def codeEffect (bf : CRField) (exc : List Exc) (code : BitVec 4) : Effect :=
  { commit := some { exc := exc, fpcc := some code }, crBF := some (bf, code) }

end Sys2Proof.Machine
end

