-- ==== Sys2Proof/Machine/Arithmetic.lean ====
section
/-! DEFINITION. The arithmetic instructions (spec/42_arithmetic.md). -/

namespace Sys2Proof.Machine

/-- What an action table of 42_arithmetic.md says of two operands (R221). -/
inductive Action where
  /-- An invalid operation, with the quiet NaN that is the disabled result. -/
  | invalid (exc : List Exc) (q : Dfp)
  /-- A zero divide with the sign of the infinity. -/
  | zeroDivide (s : Bool)
  /-- A result that needs no rounding: a propagated QNaN, an infinity or a zero. -/
  | exact (d : Dfp)
  /-- A finite nonzero value: sign, magnitude and ideal exponent. -/
  | rounded (s : Bool) (v : Mag) (ideal : Int)
  deriving DecidableEq, Repr

/-- The NaN rows and columns of every action table (R222, 40_dfp_formats.md R145). -/
def nanAction (a b : Dfp) : Action :=
  if a.isSNaN || b.isSNaN then .invalid [.vxsnan] (pickNaN a b) else .exact (pickNaN a b)

/-- A coefficient with its sign, as an integer. -/
def signed (s : Bool) (n : Nat) : Int := if s then -(n : Int) else n

/-- The exact sum of two finite numbers, in units of ten to the smaller exponent (R222). -/
def sumUnits (sa : Bool) (ca : Nat) (ea : Int) (sb : Bool) (cb : Nat) (eb : Int) : Int :=
  signed sa (ca * 10 ^ (ea - min ea eb).toNat) + signed sb (cb * 10 ^ (eb - min ea eb).toNat)

/-- The finite case of Add (R222). -/
def addFinite (mode : RMode) (sa : Bool) (ca : Nat) (ea : Int) (sb : Bool) (cb : Nat) (eb : Int) : Action :=
  let x := sumUnits sa ca ea sb cb eb
  if x = 0 then .exact (.fin (if sa = sb then sa else mode == .rtmi) 0 (min ea eb))
  else .rounded (decide (x < 0)) { num := x.natAbs, den := 1, exp := min ea eb } (min ea eb)

/-- `AddTable` (R222). -/
def addTable (mode : RMode) (a b : Dfp) : Action :=
  match a, b with
  | .fin sa ca ea, .fin sb cb eb => addFinite mode sa ca ea sb cb eb
  | .inf sa _, .inf sb _ => if sa = sb then .exact (.inf sa 0) else .invalid [.vxisi] defaultNaN
  | .inf sa _, .fin _ _ _ => .exact (.inf sa 0)
  | .fin _ _ _, .inf sb _ => .exact (.inf sb 0)
  | .qnan _ _, _ | .snan _ _, _ | _, .qnan _ _ | _, .snan _ _ => nanAction a b

/-- The operand of Subtract in FRB "with its sign bit inverted"; a NaN keeps its sign (R225, 92_eei_decisions.md D11). -/
def negateNonNaN : Dfp → Dfp
  | .fin s c e => .fin (!s) c e
  | .inf s cc => .inf (!s) cc
  | .qnan s cc => .qnan s cc
  | .snan s cc => .snan s cc

/-- Subtract: Add of the operand with its sign inverted (R225). -/
def subTable (mode : RMode) (a b : Dfp) : Action := addTable mode a (negateNonNaN b)

/-- `MulTable` (R227). -/
def mulTable (F : Format) (a b : Dfp) : Action :=
  match a, b with
  | .fin sa ca ea, .fin sb cb eb =>
    if ca = 0 ∨ cb = 0 then .exact (.fin (sa ^^ sb) 0 (clamp (ea + eb) F.xmin F.xmax))
    else .rounded (sa ^^ sb) { num := ca * cb, den := 1, exp := ea + eb } (ea + eb)
  | .inf sa _, .inf sb _ => .exact (.inf (sa ^^ sb) 0)
  | .inf sa _, .fin sb cb _ => if cb = 0 then .invalid [.vximz] defaultNaN else .exact (.inf (sa ^^ sb) 0)
  | .fin sa ca _, .inf sb _ => if ca = 0 then .invalid [.vximz] defaultNaN else .exact (.inf (sa ^^ sb) 0)
  | .qnan _ _, _ | .snan _ _, _ | _, .qnan _ _ | _, .snan _ _ => nanAction a b

/-- `DivTable` (R230). -/
def divTable (F : Format) (a b : Dfp) : Action :=
  match a, b with
  | .fin sa ca ea, .fin sb cb eb =>
    if ca = 0 ∧ cb = 0 then .invalid [.vxzdz] defaultNaN
    else if cb = 0 then .zeroDivide (sa ^^ sb)
    else if ca = 0 then .exact (.fin (sa ^^ sb) 0 (clamp (ea - eb) F.xmin F.xmax))
    else .rounded (sa ^^ sb) { num := ca, den := cb, exp := ea - eb } (ea - eb)
  | .inf _ _, .inf _ _ => .invalid [.vxidi] defaultNaN
  | .inf sa _, .fin sb _ _ => .exact (.inf (sa ^^ sb) 0)
  | .fin sa _ _, .inf sb _ => .exact (.fin (sa ^^ sb) 0 F.xmin)
  | .qnan _ _, _ | .snan _ _, _ | _, .qnan _ _ | _, .snan _ _ => nanAction a b

/-- The wrap adjustment of arithmetic: 576 for DFP64, 9216 for DFP128 (41_dfp_execution_model.md R196). No arithmetic
instruction has a DFP32 target (40_dfp_formats.md R126). -/
def arithAlpha (F : Format) : Int :=
  match F with
  | .dfp32 => 192
  | .dfp64 => 576
  | .dfp128 => 9216

/-- The effect of an action of format F on FRT[p] and the FPSCR (R221). -/
def arithEffect (F : Format) (frt : FReg) (rc : Bool) (fpscr : BitVec 64) (act : Action) : Effect :=
  match act with
  | .invalid exc q => invalidEffect F frt rc fpscr exc q
  | .zeroDivide s => zeroDivideEffect F frt rc fpscr s
  | .exact d => exactEffect F frt rc d
  | .rounded s v ideal =>
    deliveredEffect F frt rc (deliver F F.xmax s v ideal (drnMode fpscr) (arithAlpha F) fpscr)

/-- `Arith(add, F, ...)` (R221, R222). -/
def addEffect (F : Format) (frt fra frb : FReg) (rc : Bool) (s : State) : Effect :=
  arithEffect F frt rc s.fpscr (addTable (drnMode s.fpscr) (sourceDfp F s fra) (sourceDfp F s frb))

/-- Subtract (R225). -/
def subEffect (F : Format) (frt fra frb : FReg) (rc : Bool) (s : State) : Effect :=
  arithEffect F frt rc s.fpscr (subTable (drnMode s.fpscr) (sourceDfp F s fra) (sourceDfp F s frb))

/-- `Arith(mul, F, ...)` (R227). -/
def mulEffect (F : Format) (frt fra frb : FReg) (rc : Bool) (s : State) : Effect :=
  arithEffect F frt rc s.fpscr (mulTable F (sourceDfp F s fra) (sourceDfp F s frb))

/-- `Arith(div, F, ...)` (R230). -/
def divEffect (F : Format) (frt fra frb : FReg) (rc : Bool) (s : State) : Effect :=
  arithEffect F frt rc s.fpscr (divTable F (sourceDfp F s fra) (sourceDfp F s frb))

/-- DFP Add (R223). -/
def execDadd (frt fra frb : FReg) (rc : Bool) (s : State) : Answer := retire (addEffect .dfp64 frt fra frb rc s) s

/-- DFP Add Quad (R224). -/
def execDaddq (frt fra frb : FReg) (rc : Bool) (s : State) : Answer :=
  onPairs [frt, fra, frb] (retire (addEffect .dfp128 frt fra frb rc s) s)

/-- DFP Subtract (R225). -/
def execDsub (frt fra frb : FReg) (rc : Bool) (s : State) : Answer := retire (subEffect .dfp64 frt fra frb rc s) s

/-- DFP Subtract Quad (R226). -/
def execDsubq (frt fra frb : FReg) (rc : Bool) (s : State) : Answer :=
  onPairs [frt, fra, frb] (retire (subEffect .dfp128 frt fra frb rc s) s)

/-- DFP Multiply (R228). -/
def execDmul (frt fra frb : FReg) (rc : Bool) (s : State) : Answer := retire (mulEffect .dfp64 frt fra frb rc s) s

/-- DFP Multiply Quad (R229). -/
def execDmulq (frt fra frb : FReg) (rc : Bool) (s : State) : Answer :=
  onPairs [frt, fra, frb] (retire (mulEffect .dfp128 frt fra frb rc s) s)

/-- DFP Divide (R231). -/
def execDdiv (frt fra frb : FReg) (rc : Bool) (s : State) : Answer := retire (divEffect .dfp64 frt fra frb rc s) s

/-- DFP Divide Quad (R232). -/
def execDdivq (frt fra frb : FReg) (rc : Bool) (s : State) : Answer :=
  onPairs [frt, fra, frb] (retire (divEffect .dfp128 frt fra frb rc s) s)

end Sys2Proof.Machine
end

