-- ==== Sys2Proof/Machine/Compare.lean ====
section
/-! DEFINITION. The compare instructions (spec/43_compare.md). -/

namespace Sys2Proof.Machine

/-- The four codes of 43_compare.md R240: FL, FG, FE, FU. -/
def codeLess : BitVec 4 := 0b1000#4

/-- FG (R240). -/
def codeGreater : BitVec 4 := 0b0100#4

/-- FE (R240). -/
def codeEqual : BitVec 4 := 0b0010#4

/-- FU (R240). -/
def codeUnordered : BitVec 4 := 0b0001#4

/-- The code of the order of two integers (R240). -/
def orderCode (x y : Int) : BitVec 4 := if x < y then codeLess else if y < x then codeGreater else codeEqual

/-- A coefficient at exponent e in units of ten to the m, with its sign. -/
def unitsAt (s : Bool) (c : Nat) (e m : Int) : Int :=
  if s then -((c * 10 ^ (e - m).toNat : Nat) : Int) else ((c * 10 ^ (e - m).toNat : Nat) : Int)

/-- The code of the comparison of two values (R241): infinities beyond every finite number, NaNs unordered, finite numbers
by value. -/
def compareCode (a b : Dfp) : BitVec 4 :=
  match a, b with
  | .fin sa ca ea, .fin sb cb eb => orderCode (unitsAt sa ca ea (min ea eb)) (unitsAt sb cb eb (min ea eb))
  | .inf sa _, .inf sb _ => if sa = sb then codeEqual else if sa then codeLess else codeGreater
  | .inf sa _, .fin _ _ _ => if sa then codeLess else codeGreater
  | .fin _ _ _, .inf sb _ => if sb then codeGreater else codeLess
  | .qnan _ _, _ | .snan _ _, _ | _, .qnan _ _ | _, .snan _ _ => codeUnordered

/-- The exceptions of a comparison (R241, R246). -/
def compareExc (ordered : Bool) (ve : Bool) (a b : Dfp) : List Exc :=
  if a.isSNaN || b.isSNaN then (if ordered && !ve then [.vxsnan, .vxvc] else [.vxsnan])
  else if (a.isNaN || b.isNaN) && ordered then [.vxvc]
  else []

/-- `Compare(ordered, F, BF, FRA, FRB)` (R241). -/
def compareEffect (ordered : Bool) (F : Format) (bf : CRField) (fra frb : FReg) (s : State) : Effect :=
  let a := sourceDfp F s fra
  let b := sourceDfp F s frb
  codeEffect bf (compareExc ordered (enabled s.fpscr .invalid) a b) (compareCode a b)

/-- DFP Compare Unordered (R242). -/
def execDcmpu (bf : CRField) (fra frb : FReg) (s : State) : Answer := retire (compareEffect false .dfp64 bf fra frb s) s

/-- DFP Compare Unordered Quad (R243). -/
def execDcmpuq (bf : CRField) (fra frb : FReg) (s : State) : Answer :=
  onPairs [fra, frb] (retire (compareEffect false .dfp128 bf fra frb s) s)

/-- DFP Compare Ordered (R244). -/
def execDcmpo (bf : CRField) (fra frb : FReg) (s : State) : Answer := retire (compareEffect true .dfp64 bf fra frb s) s

/-- DFP Compare Ordered Quad (R245). -/
def execDcmpoq (bf : CRField) (fra frb : FReg) (s : State) : Answer :=
  onPairs [fra, frb] (retire (compareEffect true .dfp128 bf fra frb s) s)

end Sys2Proof.Machine
end

