-- ==== Sys2Proof/Machine/Conversion.lean ====
section
/-! DEFINITION. The conversion instructions (spec/46_conversion.md). -/

namespace Sys2Proof.Machine

/-- A result d of format F with its FPRF, the FPSCR's FR and FI unchanged (R301, R305). -/
def convertedEffect (F : Format) (frt : FReg) (rc : Bool) (d : Dfp) : Effect :=
  { fprs := dfpWrites F frt d, commit := some { fprf := some (fprfOf F d) }, rc := rc }

/-- `dctdp`: the DFP32 value, special or finite, in DFP64 (R301). The sign, the coefficient or payload and the exponent are
those of the source, an SNaN among them. -/
def toDfp64Effect (frt frb : FReg) (rc : Bool) (s : State) : Effect :=
  convertedEffect .dfp64 frt rc (sourceDfp .dfp32 s frb)

/-- `dctqpq`: a DFP64 value in DFP128 (R302). -/
def toDfp128Effect (frt frb : FReg) (rc : Bool) (s : State) : Effect :=
  match sourceDfp .dfp64 s frb with
  | .snan sg cc => invalidEffect .dfp128 frt rc s.fpscr [.vxsnan] (.qnan sg cc)
  | .qnan sg cc => exactEffect .dfp128 frt rc (.qnan sg cc)
  | .inf sg _ => exactEffect .dfp128 frt rc (.inf sg 0)
  | .fin sg c e => exactEffect .dfp128 frt rc (.fin sg c e)

/-- `NarrowFinite` for a nonzero coefficient: `Deliver` in the narrower format Ft, a wrapped result bounded by the largest
exponent of the source format Fs (R309, 41_dfp_execution_model.md R196). -/
def narrowNonzero (Fs Ft : Format) (alpha : Int) (sg : Bool) (c : Nat) (e : Int) (fpscr : BitVec 64) : Delivered :=
  deliver Ft Fs.xmax sg { num := c, den := 1, exp := e } e (drnMode fpscr) alpha fpscr

/-- `NarrowFinite` (R309). -/
def narrowFinite (Fs Ft : Format) (alpha : Int) (sg : Bool) (c : Nat) (e : Int) (fpscr : BitVec 64) : Delivered :=
  if c = 0 then
    { d := .fin sg 0 (clamp e Ft.xmin Ft.xmax), fi := false, fr := false, exc := [], forceNormal := false }
  else narrowNonzero Fs Ft alpha sg c e fpscr

/-- `deliver32`: the DFP32 value in bits 32:63 of FRT, any value in bits 0:31 (R303, 92_eei_decisions.md D8; log entry 3). -/
def narrow32Writes (pad : BitVec 32) (frt : FReg) (d : Dfp) : List (FReg × Doubleword) :=
  [(frt, pad ++ BitVec.ofNat 32 (encodeDfp .dfp32 d))]

/-- `deliver64`: the DFP64 value in FPR[FRTp], any value in FPR[FRTp+1] (R304, 92_eei_decisions.md D8; log entry 3). -/
def narrow64Writes (pad : Doubleword) (frt : FReg) (d : Dfp) : List (FReg × Doubleword) :=
  [(frt, BitVec.ofNat 64 (encodeDfp .dfp64 d)), (oddOf frt, pad)]

/-- A special result of a narrowing conversion: FI = FR = 0 (R303, R304). -/
def specialNarrowEffect (Ft : Format) (ws : List (FReg × Doubleword)) (rc : Bool) (exc : List Exc) (d : Dfp) : Effect :=
  { fprs := ws, commit := some { exc := exc, fi := some false, fr := some false, fprf := some (fprfOf Ft d) }, rc := rc }

/-- A finite result of a narrowing conversion: ws are the writes of a result in format Ft; a wrapped result is delivered in
the source format Fs (R309). -/
def narrowedEffect (Fs Ft : Format) (frt : FReg) (ws : Dfp → List (FReg × Doubleword)) (rc : Bool) (r : Delivered) :
    Effect :=
  { fprs := if r.forceNormal then dfpWrites Fs frt r.d else ws r.d
    commit := some { exc := r.exc, fi := some r.fi, fr := some r.fr, fprf := some (deliveredFprf Ft r) }
    rc := rc }

/-- `drsp` (R303). No invalid operation, an SNaN stays one; payloads keep their rightmost 6 digits (R308). -/
def roundToDfp32Effect (frt frb : FReg) (rc : Bool) (s : State) : Effect :=
  let ws := narrow32Writes (Config.drspPad s.freeCount) frt
  match sourceDfp .dfp64 s frb with
  | .snan sg cc => specialNarrowEffect .dfp32 (ws (.snan sg (cc % 10 ^ 6))) rc [] (.snan sg (cc % 10 ^ 6))
  | .qnan sg cc => specialNarrowEffect .dfp32 (ws (.qnan sg (cc % 10 ^ 6))) rc [] (.qnan sg (cc % 10 ^ 6))
  | .inf sg cc => specialNarrowEffect .dfp32 (ws (.inf sg (cc % 10 ^ 6))) rc [] (.inf sg (cc % 10 ^ 6))
  | .fin sg c e => narrowedEffect .dfp64 .dfp32 frt ws rc (narrowFinite .dfp64 .dfp32 192 sg c e s.fpscr)

/-- `drdpq` (R304). -/
def roundToDfp64Effect (frt frb : FReg) (rc : Bool) (s : State) : Effect :=
  let ws := narrow64Writes (Config.drdpqPad s.freeCount) frt
  match sourceDfp .dfp128 s frb with
  | .snan sg cc =>
    if enabled s.fpscr .invalid then suppressedEffect [.vxsnan] rc
    else specialNarrowEffect .dfp64 (ws (.qnan sg (cc % 10 ^ 15))) rc [.vxsnan] (.qnan sg (cc % 10 ^ 15))
  | .qnan sg cc => specialNarrowEffect .dfp64 (ws (.qnan sg (cc % 10 ^ 15))) rc [] (.qnan sg (cc % 10 ^ 15))
  | .inf sg _ => specialNarrowEffect .dfp64 (ws (.inf sg 0)) rc [] (.inf sg 0)
  | .fin sg c e => narrowedEffect .dfp128 .dfp64 frt ws rc (narrowFinite .dfp128 .dfp64 3072 sg c e s.fpscr)

/-- The DFP number of a signed integer, exponent 0 (R305). -/
def dfpOfInt (x : Int) : Dfp := .fin (decide (x < 0)) x.natAbs 0

/-- `dcffixq` (R305). -/
def fromFixedEffect (frt frb : FReg) (rc : Bool) (s : State) : Effect :=
  convertedEffect .dfp128 frt rc (dfpOfInt (readInt s frb))

/-- MN, the most negative 64-bit integer (R306). -/
def mostNegative : Int := -(2 ^ 63)

/-- MP, the most positive 64-bit integer (R306). -/
def mostPositive : Int := 2 ^ 63 - 1

/-- What Convert To Fixed makes of its operand (R306). -/
inductive Fixed where
  /-- An invalid operation, with the integer that is the disabled result. -/
  | invalid (exc : List Exc) (v : Int)
  /-- An integer with its FI and FR. -/
  | value (v : Int) (fi fr : Bool)
  deriving DecidableEq, Repr

/-- The finite number (-1)^sg c 10^e as a fixed-point number: rounded, then tested for range (R306). -/
def fixFinite (mode : RMode) (sg : Bool) (c : Nat) (e : Int) : Fixed :=
  let q := roundAt mode sg { num := c, den := 1, exp := e } 0
  let v : Int := if sg then -(q.n : Int) else q.n
  if v < mostNegative then .invalid [.vxcvi] mostNegative
  else if mostPositive < v then .invalid [.vxcvi] mostPositive
  else .value v q.inexact q.incremented

/-- Convert To Fixed of a decoded operand (R306). -/
def toFixed (mode : RMode) (b : Dfp) : Fixed :=
  match b with
  | .snan _ _ => .invalid [.vxcvi, .vxsnan] mostNegative
  | .qnan _ _ => .invalid [.vxcvi] mostNegative
  | .inf sg _ => .invalid [.vxcvi] (if sg then mostNegative else mostPositive)
  | .fin sg c e => fixFinite mode sg c e

/-- `dctfix[q]` (R306): FPRF is unchanged in every case. -/
def toFixedEffect (F : Format) (frt frb : FReg) (rc : Bool) (s : State) : Effect :=
  match toFixed (drnMode s.fpscr) (sourceDfp F s frb) with
  | .invalid exc v =>
    { fprs := if enabled s.fpscr .invalid then [] else [(frt, BitVec.ofInt 64 v)]
      commit := some { exc := exc, fi := some false, fr := some false }
      rc := rc }
  | .value v fi fr =>
    { fprs := [(frt, BitVec.ofInt 64 v)], commit := some { exc := xxIf fi, fi := some fi, fr := some fr }, rc := rc }

/-- DFP Convert To DFP64 (R301). -/
def execDctdp (frt frb : FReg) (rc : Bool) (s : State) : Answer := retire (toDfp64Effect frt frb rc s) s

/-- DFP Convert To DFP128 (R302). -/
def execDctqpq (frt frb : FReg) (rc : Bool) (s : State) : Answer :=
  onPairs [frt] (retire (toDfp128Effect frt frb rc s) s)

/-- DFP Round To DFP32 (R303). -/
def execDrsp (frt frb : FReg) (rc : Bool) (s : State) : Answer := retire (roundToDfp32Effect frt frb rc s) s

/-- DFP Round To DFP64 (R304). -/
def execDrdpq (frt frb : FReg) (rc : Bool) (s : State) : Answer :=
  onPairs [frt, frb] (retire (roundToDfp64Effect frt frb rc s) s)

/-- DFP Convert From Fixed Quad (R305). -/
def execDcffixq (frt frb : FReg) (rc : Bool) (s : State) : Answer :=
  onPairs [frt] (retire (fromFixedEffect frt frb rc s) s)

/-- DFP Convert To Fixed (R306). -/
def execDctfix (frt frb : FReg) (rc : Bool) (s : State) : Answer := retire (toFixedEffect .dfp64 frt frb rc s) s

/-- DFP Convert To Fixed Quad (R307). -/
def execDctfixq (frt frb : FReg) (rc : Bool) (s : State) : Answer :=
  onPairs [frb] (retire (toFixedEffect .dfp128 frt frb rc s) s)

end Sys2Proof.Machine
end

