-- ==== Sys2Proof/Machine/FormatOps.lean ====
section
/-! DEFINITION. The format instructions (spec/47_format.md). All but `denbcd[q]` leave the FPSCR alone (R330). -/

namespace Sys2Proof.Machine

/-- `CoefDigits_F` (R335): the coefficient, or the CC digits of a special padded on the left by a zero digit. -/
def coefDigits : Dfp → Nat
  | .fin _ c _ => c
  | .inf _ cc | .qnan _ cc | .snan _ cc => cc

/-- `BCDPack(n, k)` (R336): the k nibbles of the last k digits of n. -/
def bcdPack (n : Nat) : Nat → Nat
  | 0 => 0
  | k + 1 => bcdPack (n / 10) k * 16 + n % 10

/-- `BCDUnpack(w, k)` (R337): the number of the last k nibbles of w, none when one is no digit. -/
def bcdUnpack (w : Nat) : Nat → Option Nat
  | 0 => some 0
  | k + 1 =>
    if 9 < w % 16 then none
    else
      match bcdUnpack (w / 16) k with
      | none => none
      | some n => some (n * 10 + w % 16)

/-- `BCDSign` of a nibble (R337, 40_dfp_formats.md R122): true for minus, none for a digit code. -/
def bcdSign (nib : Nat) : Option Bool :=
  match nib with
  | 10 | 12 | 14 | 15 => some false
  | 11 | 13 => some true
  | _ => none

/-- The sign nibble of Decode DPD To BCD (R331). -/
def signNibble (s sp1 : Bool) : Nat := if s then 13 else if sp1 then 15 else 12

/-- The BCD result of Decode DPD To BCD with k nibbles (R331, R332): k digits, or k - 1 digits and a sign. -/
def decodeBcd (k : Nat) (sp0 sp1 : Bool) (b : Dfp) : Nat :=
  if sp0 then bcdPack (coefDigits b) (k - 1) * 16 + signNibble b.sign sp1 else bcdPack (coefDigits b) k

/-- The number of BCD nibbles in an operand of format F (40_dfp_formats.md R121). -/
def Format.nibbles (F : Format) : Nat := F.width / 4

/-- `ddedpd[q]` (R331, R332). -/
def decodeDpdEffect (F : Format) (frt : FReg) (sp0 sp1 : Bool) (frb : FReg) (rc : Bool) (s : State) : Effect :=
  plainEffect (targetWrites F frt (decodeBcd F.nibbles sp0 sp1 (sourceDfp F s frb))) rc

/-- The number a BCD operand w of k nibbles stands for, with exponent 0; none for an invalid digit or sign code (R333). -/
def bcdToDfp (k : Nat) (sgn : Bool) (w : Nat) : Option Dfp :=
  if sgn then
    match bcdUnpack (w / 16) (k - 1), bcdSign (w % 16) with
    | some n, some s => some (.fin s n 0)
    | _, none | none, _ => none
  else
    match bcdUnpack w k with
    | some n => some (.fin false n 0)
    | none => none

/-- `denbcd[q]` (R333, R334). -/
def encodeBcdEffect (F : Format) (frt : FReg) (sgn : Bool) (frb : FReg) (rc : Bool) (s : State) : Effect :=
  match bcdToDfp F.nibbles sgn (sourceBits F s frb) with
  | none => invalidEffect F frt rc s.fpscr [.vxcvi] defaultNaN
  | some d => exactEffect F frt rc d

/-- What Extract Biased Exponent returns (R340): the biased exponent, or a negative code for a special. -/
def biasedExponent (F : Format) (b : Dfp) : Int :=
  match b with
  | .fin _ _ e => e + F.bias
  | .inf _ _ => -1
  | .qnan _ _ => -2
  | .snan _ _ => -3

/-- `dxex[q]` (R340, R341). -/
def extractExponentEffect (F : Format) (frt frb : FReg) (rc : Bool) (s : State) : Effect :=
  plainEffect [(frt, BitVec.ofInt 64 (biasedExponent F (sourceDfp F s frb)))] rc

/-- The digits of the CC field of a value of format F (R342). -/
def ccDigits (F : Format) (b : Dfp) : Nat := coefDigits b % 10 ^ (F.prec - 1)

/-- What Insert Biased Exponent makes of b with the integer a (R342, Figure 36): a biased exponent, or a code for the class
of the result. -/
def insertExponent (F : Format) (a : Int) (b : Dfp) : Dfp :=
  if 0 ≤ a ∧ a ≤ F.maxBiased then .fin b.sign (coefDigits b) (a - F.bias)
  else if a = -1 then .inf b.sign (ccDigits F b)
  else if a = -3 then .snan b.sign (ccDigits F b)
  else .qnan b.sign (ccDigits F b)

/-- `diex[q]` (R342, R343): FRA is a single register in both forms. -/
def insertExponentEffect (F : Format) (frt fra frb : FReg) (rc : Bool) (s : State) : Effect :=
  plainEffect (dfpWrites F frt (insertExponent F (readInt s fra) (sourceDfp F s frb))) rc

/-- `ShiftDigits(n, k, left, sh)` (R339). -/
def shiftDigits (n k : Nat) (left : Bool) (sh : Nat) : Nat :=
  if left then n * 10 ^ sh % 10 ^ k else n / 10 ^ sh

/-- The operand with its digits shifted: all digits of a finite coefficient, the CC digits of a special (R344, R346). -/
def shiftCoefficient (F : Format) (left : Bool) (sh : Nat) (a : Dfp) : Dfp :=
  match a with
  | .fin s c e => .fin s (shiftDigits c F.prec left sh) e
  | .inf s cc => .inf s (shiftDigits cc (F.prec - 1) left sh)
  | .qnan s cc => .qnan s (shiftDigits cc (F.prec - 1) left sh)
  | .snan s cc => .snan s (shiftDigits cc (F.prec - 1) left sh)

/-- `dscli[q]` and `dscri[q]` (R344 to R347). -/
def shiftEffect (F : Format) (left : Bool) (frt fra : FReg) (sh : Fin 64) (rc : Bool) (s : State) : Effect :=
  plainEffect (dfpWrites F frt (shiftCoefficient F left sh.val (sourceDfp F s fra))) rc

/-- DFP Decode DPD To BCD (R331). -/
def execDdedpd (frt : FReg) (sp0 sp1 : Bool) (frb : FReg) (rc : Bool) (s : State) : Answer :=
  retire (decodeDpdEffect .dfp64 frt sp0 sp1 frb rc s) s

/-- DFP Decode DPD To BCD Quad (R332). -/
def execDdedpdq (frt : FReg) (sp0 sp1 : Bool) (frb : FReg) (rc : Bool) (s : State) : Answer :=
  onPairs [frt, frb] (retire (decodeDpdEffect .dfp128 frt sp0 sp1 frb rc s) s)

/-- DFP Encode BCD To DPD (R333). -/
def execDenbcd (frt : FReg) (sgn : Bool) (frb : FReg) (rc : Bool) (s : State) : Answer :=
  retire (encodeBcdEffect .dfp64 frt sgn frb rc s) s

/-- DFP Encode BCD To DPD Quad (R334). -/
def execDenbcdq (frt : FReg) (sgn : Bool) (frb : FReg) (rc : Bool) (s : State) : Answer :=
  onPairs [frt, frb] (retire (encodeBcdEffect .dfp128 frt sgn frb rc s) s)

/-- DFP Extract Biased Exponent (R340). -/
def execDxex (frt frb : FReg) (rc : Bool) (s : State) : Answer := retire (extractExponentEffect .dfp64 frt frb rc s) s

/-- DFP Extract Biased Exponent Quad (R341). -/
def execDxexq (frt frb : FReg) (rc : Bool) (s : State) : Answer :=
  onPairs [frb] (retire (extractExponentEffect .dfp128 frt frb rc s) s)

/-- DFP Insert Biased Exponent (R342). -/
def execDiex (frt fra frb : FReg) (rc : Bool) (s : State) : Answer :=
  retire (insertExponentEffect .dfp64 frt fra frb rc s) s

/-- DFP Insert Biased Exponent Quad (R343). -/
def execDiexq (frt fra frb : FReg) (rc : Bool) (s : State) : Answer :=
  onPairs [frt, frb] (retire (insertExponentEffect .dfp128 frt fra frb rc s) s)

/-- DFP Shift Coefficient Left Immediate (R344). -/
def execDscli (frt fra : FReg) (sh : Fin 64) (rc : Bool) (s : State) : Answer :=
  retire (shiftEffect .dfp64 true frt fra sh rc s) s

/-- DFP Shift Coefficient Left Quad Immediate (R345). -/
def execDscliq (frt fra : FReg) (sh : Fin 64) (rc : Bool) (s : State) : Answer :=
  onPairs [frt, fra] (retire (shiftEffect .dfp128 true frt fra sh rc s) s)

/-- DFP Shift Coefficient Right Immediate (R346). -/
def execDscri (frt fra : FReg) (sh : Fin 64) (rc : Bool) (s : State) : Answer :=
  retire (shiftEffect .dfp64 false frt fra sh rc s) s

/-- DFP Shift Coefficient Right Quad Immediate (R347). -/
def execDscriq (frt fra : FReg) (sh : Fin 64) (rc : Bool) (s : State) : Answer :=
  onPairs [frt, fra] (retire (shiftEffect .dfp128 false frt fra sh rc s) s)

end Sys2Proof.Machine
end

