-- ==== Sys2Proof/Machine/Quantum.lean ====
section
/-! DEFINITION. The quantum adjustment instructions (spec/45_quantum_adjustment.md). -/

namespace Sys2Proof.Machine

/-- An outcome for `QFinish` (R270). -/
inductive Adjusted where
  /-- An invalid operation, with the quiet NaN that is the disabled result. -/
  | invalid (exc : List Exc) (q : Dfp)
  /-- A result with its FI and FR. -/
  | result (d : Dfp) (fi fr : Bool)
  deriving DecidableEq, Repr

/-- `QFinish` (R270). -/
def adjustEffect (F : Format) (frt : FReg) (rc : Bool) (fpscr : BitVec 64) (o : Adjusted) : Effect :=
  match o with
  | .invalid exc q => invalidEffect F frt rc fpscr exc q
  | .result d fi fr => adjustedEffect F frt rc d fi fr

/-- The finite case of `Quantize`: the number (-1)^s c 10^se at the exponent te (R272). -/
def quantizeFinite (F : Format) (te : Int) (s : Bool) (c : Nat) (se : Int) (mode : RMode) : Adjusted :=
  if c = 0 then .result (.fin s 0 te) false false
  else if te < se then
    let c2 := c * 10 ^ (se - te).toNat
    if F.maxCoef < c2 then .invalid [.vxcvi] defaultNaN else .result (.fin s c2 te) false false
  else if te = se then .result (.fin s c se) false false
  else
    let r := roundInt mode s c (10 ^ (te - se).toNat)
    .result (.fin s r.n te) r.inexact r.incremented

/-- `Quantize(F, a, b, mode)` (R272). -/
def quantize (F : Format) (a b : Dfp) (mode : RMode) : Adjusted :=
  match a, b with
  | .fin _ _ te, .fin s c se => quantizeFinite F te s c se mode
  | .inf _ _, .inf sb _ => .result (.inf sb 0) false false
  | .inf _ _, .fin _ _ _ => .invalid [.vxcvi] defaultNaN
  | .fin _ _ _, .inf _ _ => .invalid [.vxcvi] defaultNaN
  | .qnan _ _, _ | .snan _ _, _ | _, .qnan _ _ | _, .snan _ _ =>
    if a.isSNaN || b.isSNaN then .invalid [.vxsnan] (pickNaN a b) else .result (pickNaN a b) false false

/-- The finite case of `Reround` (R277). -/
def reroundFinite (F : Format) (k : Nat) (s : Bool) (c : Nat) (e : Int) (mode : RMode) : Adjusted :=
  if k = 0 ∨ digits c ≤ k then .result (.fin s c e) false false
  else
    let r := roundInt mode s c (10 ^ (digits c - k))
    let e2 : Int := e + (digits c - k : Nat)
    let n := if r.n = 10 ^ k then 10 ^ (k - 1) else r.n
    let e3 := if r.n = 10 ^ k then e2 + 1 else e2
    if F.xmax < e3 then .invalid [.vxcvi] defaultNaN else .result (.fin s n e3) r.inexact r.incremented

/-- `Reround(F, k, b, mode)` (R277). -/
def reround (F : Format) (k : Nat) (b : Dfp) (mode : RMode) : Adjusted :=
  match b with
  | .snan s cc => .invalid [.vxsnan] (.qnan s cc)
  | .qnan s cc => .result (.qnan s cc) false false
  | .inf s _ => .result (.inf s 0) false false
  | .fin s c e => reroundFinite F k s c e mode

/-- `RoundToInt(F, b, mode, withInexact)` (R280). -/
def roundToInt (b : Dfp) (mode : RMode) (withInexact : Bool) : Adjusted :=
  match b with
  | .snan s cc => .invalid [.vxsnan] (.qnan s cc)
  | .qnan s cc => .result (.qnan s cc) false false
  | .inf s _ => .result (.inf s 0) false false
  | .fin s c e =>
    if 0 ≤ e then .result (.fin s c e) false false
    else
      let r := roundInt mode s c (10 ^ (-e).toNat)
      if withInexact then .result (.fin s r.n 0) r.inexact r.incremented else .result (.fin s r.n 0) false false

/-- Quantize Immediate (R273): TE as a two's-complement exponent. -/
def quantizeImmediateEffect (F : Format) (frt : FReg) (te : BitVec 5) (frb : FReg) (rmc : Fin 4) (rc : Bool)
    (s : State) : Effect :=
  adjustEffect F frt rc s.fpscr
    (quantize F (.fin false 1 te.toInt) (sourceDfp F s frb) (rmcMode false rmc s.fpscr))

/-- Quantize (R275). -/
def quantizeEffect (F : Format) (frt fra frb : FReg) (rmc : Fin 4) (rc : Bool) (s : State) : Effect :=
  adjustEffect F frt rc s.fpscr
    (quantize F (sourceDfp F s fra) (sourceDfp F s frb) (rmcMode false rmc s.fpscr))

/-- Reround (R278): FRA is a single register in both forms (30_encoding.md R99). -/
def reroundEffect (F : Format) (frt fra frb : FReg) (rmc : Fin 4) (rc : Bool) (s : State) : Effect :=
  adjustEffect F frt rc s.fpscr
    (reround F (readSignificance s fra) (sourceDfp F s frb) (rmcMode false rmc s.fpscr))

/-- Round To FP Integer (R280). -/
def roundToIntEffect (F : Format) (frt : FReg) (r : Bool) (frb : FReg) (rmc : Fin 4) (withInexact rc : Bool)
    (s : State) : Effect :=
  adjustEffect F frt rc s.fpscr (roundToInt (sourceDfp F s frb) (rmcMode r rmc s.fpscr) withInexact)

/-- DFP Quantize Immediate (R273). -/
def execDquai (frt : FReg) (te : BitVec 5) (frb : FReg) (rmc : Fin 4) (rc : Bool) (s : State) : Answer :=
  retire (quantizeImmediateEffect .dfp64 frt te frb rmc rc s) s

/-- DFP Quantize Immediate Quad (R274). -/
def execDquaiq (frt : FReg) (te : BitVec 5) (frb : FReg) (rmc : Fin 4) (rc : Bool) (s : State) : Answer :=
  onPairs [frt, frb] (retire (quantizeImmediateEffect .dfp128 frt te frb rmc rc s) s)

/-- DFP Quantize (R275). -/
def execDqua (frt fra frb : FReg) (rmc : Fin 4) (rc : Bool) (s : State) : Answer :=
  retire (quantizeEffect .dfp64 frt fra frb rmc rc s) s

/-- DFP Quantize Quad (R276). -/
def execDquaq (frt fra frb : FReg) (rmc : Fin 4) (rc : Bool) (s : State) : Answer :=
  onPairs [frt, fra, frb] (retire (quantizeEffect .dfp128 frt fra frb rmc rc s) s)

/-- DFP Reround (R278). -/
def execDrrnd (frt fra frb : FReg) (rmc : Fin 4) (rc : Bool) (s : State) : Answer :=
  retire (reroundEffect .dfp64 frt fra frb rmc rc s) s

/-- DFP Reround Quad (R279). -/
def execDrrndq (frt fra frb : FReg) (rmc : Fin 4) (rc : Bool) (s : State) : Answer :=
  onPairs [frt, frb] (retire (reroundEffect .dfp128 frt fra frb rmc rc s) s)

/-- DFP Round To FP Integer With Inexact (R281). -/
def execDrintx (frt : FReg) (r : Bool) (frb : FReg) (rmc : Fin 4) (rc : Bool) (s : State) : Answer :=
  retire (roundToIntEffect .dfp64 frt r frb rmc true rc s) s

/-- DFP Round To FP Integer With Inexact Quad (R282). -/
def execDrintxq (frt : FReg) (r : Bool) (frb : FReg) (rmc : Fin 4) (rc : Bool) (s : State) : Answer :=
  onPairs [frt, frb] (retire (roundToIntEffect .dfp128 frt r frb rmc true rc s) s)

/-- DFP Round To FP Integer Without Inexact (R283). -/
def execDrintn (frt : FReg) (r : Bool) (frb : FReg) (rmc : Fin 4) (rc : Bool) (s : State) : Answer :=
  retire (roundToIntEffect .dfp64 frt r frb rmc false rc s) s

/-- DFP Round To FP Integer Without Inexact Quad (R284). -/
def execDrintnq (frt : FReg) (r : Bool) (frb : FReg) (rmc : Fin 4) (rc : Bool) (s : State) : Answer :=
  onPairs [frt, frb] (retire (roundToIntEffect .dfp128 frt r frb rmc false rc s) s)

end Sys2Proof.Machine
end

