-- ==== Sys2Proof/Machine/Test.lean ====
section
/-! DEFINITION. The test instructions (spec/44_test.md). None causes an exception (R250). -/

namespace Sys2Proof.Machine

/-- The number of a data class in the mask DCM (R251). -/
def DataClass.index : DataClass → Nat
  | .zero => 0
  | .subnormal => 1
  | .normal => 2
  | .infinity => 3
  | .quietNaN => 4
  | .signalingNaN => 5

/-- The code sign || 0 || match || 0 (R251). -/
def matchCode (sign hit : Bool) : BitVec 4 :=
  match sign, hit with
  | false, false => 0b0000#4
  | false, true => 0b0010#4
  | true, false => 0b1000#4
  | true, true => 0b1010#4

/-- The number of the data group of a value in the mask DGM (R253). -/
def dataGroup (F : Format) (a : Dfp) : Nat :=
  match a with
  | .inf _ _ | .qnan _ _ | .snan _ _ => 5
  | .fin _ c e =>
    let extreme := e == F.xmin || e == F.xmax
    if c = 0 then (if extreme then 1 else 0)
    else if isSubnormal F c e || extreme then 2
    else if c / 10 ^ (F.prec - 1) = 0 then 3
    else 4

/-- Test Data Class (R251). -/
def testClassEffect (F : Format) (bf : CRField) (fra : FReg) (mask : BitVec 6) (s : State) : Effect :=
  let a := sourceDfp F s fra
  codeEffect bf [] (matchCode a.sign (bitAt mask (a.dataClass F).index))

/-- Test Data Group (R253). -/
def testGroupEffect (F : Format) (bf : CRField) (fra : FReg) (mask : BitVec 6) (s : State) : Effect :=
  let a := sourceDfp F s fra
  codeEffect bf [] (matchCode a.sign (bitAt mask (dataGroup F a)))

/-- The code of Test Exponent (R255). -/
def exponentCode (a b : Dfp) : BitVec 4 :=
  match a, b with
  | .fin _ _ ea, .fin _ _ eb => orderCode ea eb
  | .inf _ _, .inf _ _ => codeEqual
  | .qnan _ _, .qnan _ _ | .qnan _ _, .snan _ _ | .snan _ _, .qnan _ _ | .snan _ _, .snan _ _ => codeEqual
  | .fin _ _ _, .inf _ _ | .fin _ _ _, .qnan _ _ | .fin _ _ _, .snan _ _ => codeUnordered
  | .inf _ _, .fin _ _ _ | .inf _ _, .qnan _ _ | .inf _ _, .snan _ _ => codeUnordered
  | .qnan _ _, .fin _ _ _ | .qnan _ _, .inf _ _ | .snan _ _, .fin _ _ _ | .snan _ _, .inf _ _ => codeUnordered

/-- Test Exponent (R255). -/
def testExponentEffect (F : Format) (bf : CRField) (fra frb : FReg) (s : State) : Effect :=
  codeEffect bf [] (exponentCode (sourceDfp F s fra) (sourceDfp F s frb))

/-- The code of Test Significance for the referenced significance k (R257). -/
def significanceCode (k : Nat) (b : Dfp) : BitVec 4 :=
  match b with
  | .inf _ _ | .qnan _ _ | .snan _ _ => codeUnordered
  | .fin _ c _ => if k = 0 then codeGreater else orderCode k (digits c)

/-- Test Significance (R257, R259): FRA is a single register in both forms (30_encoding.md R99). -/
def testSignificanceEffect (F : Format) (bf : CRField) (fra frb : FReg) (s : State) : Effect :=
  codeEffect bf [] (significanceCode (readSignificance s fra) (sourceDfp F s frb))

/-- DFP Test Data Class (R251). -/
def execDtstdc (bf : CRField) (fra : FReg) (mask : BitVec 6) (s : State) : Answer :=
  retire (testClassEffect .dfp64 bf fra mask s) s

/-- DFP Test Data Class Quad (R252). -/
def execDtstdcq (bf : CRField) (fra : FReg) (mask : BitVec 6) (s : State) : Answer :=
  onPairs [fra] (retire (testClassEffect .dfp128 bf fra mask s) s)

/-- DFP Test Data Group (R253). -/
def execDtstdg (bf : CRField) (fra : FReg) (mask : BitVec 6) (s : State) : Answer :=
  retire (testGroupEffect .dfp64 bf fra mask s) s

/-- DFP Test Data Group Quad (R254). -/
def execDtstdgq (bf : CRField) (fra : FReg) (mask : BitVec 6) (s : State) : Answer :=
  onPairs [fra] (retire (testGroupEffect .dfp128 bf fra mask s) s)

/-- DFP Test Exponent (R255). -/
def execDtstex (bf : CRField) (fra frb : FReg) (s : State) : Answer := retire (testExponentEffect .dfp64 bf fra frb s) s

/-- DFP Test Exponent Quad (R256). -/
def execDtstexq (bf : CRField) (fra frb : FReg) (s : State) : Answer :=
  onPairs [fra, frb] (retire (testExponentEffect .dfp128 bf fra frb s) s)

/-- DFP Test Significance (R257). -/
def execDtstsf (bf : CRField) (fra frb : FReg) (s : State) : Answer :=
  retire (testSignificanceEffect .dfp64 bf fra frb s) s

/-- DFP Test Significance Quad (R258). -/
def execDtstsfq (bf : CRField) (fra frb : FReg) (s : State) : Answer :=
  onPairs [frb] (retire (testSignificanceEffect .dfp128 bf fra frb s) s)

end Sys2Proof.Machine
end

