-- ==== Sys2Proof/Machine/Dispatch.lean ====
section
/-! DEFINITION. The meaning of every instruction: one arm per constructor of `Instr`. -/

namespace Sys2Proof.Machine

def exec (i : Instr) (s : State) : Host.Outcome State Fault Refusal :=
  match i with
  | .dadd frt fra frb rc => Sys2Proof.Machine.execDadd frt fra frb rc s
  | .daddq frt fra frb rc => Sys2Proof.Machine.execDaddq frt fra frb rc s
  | .dsub frt fra frb rc => Sys2Proof.Machine.execDsub frt fra frb rc s
  | .dsubq frt fra frb rc => Sys2Proof.Machine.execDsubq frt fra frb rc s
  | .dmul frt fra frb rc => Sys2Proof.Machine.execDmul frt fra frb rc s
  | .dmulq frt fra frb rc => Sys2Proof.Machine.execDmulq frt fra frb rc s
  | .ddiv frt fra frb rc => Sys2Proof.Machine.execDdiv frt fra frb rc s
  | .ddivq frt fra frb rc => Sys2Proof.Machine.execDdivq frt fra frb rc s
  | .dcmpu bf fra frb => Sys2Proof.Machine.execDcmpu bf fra frb s
  | .dcmpuq bf fra frb => Sys2Proof.Machine.execDcmpuq bf fra frb s
  | .dcmpo bf fra frb => Sys2Proof.Machine.execDcmpo bf fra frb s
  | .dcmpoq bf fra frb => Sys2Proof.Machine.execDcmpoq bf fra frb s
  | .dtstdc bf fra mask => Sys2Proof.Machine.execDtstdc bf fra mask s
  | .dtstdcq bf fra mask => Sys2Proof.Machine.execDtstdcq bf fra mask s
  | .dtstdg bf fra mask => Sys2Proof.Machine.execDtstdg bf fra mask s
  | .dtstdgq bf fra mask => Sys2Proof.Machine.execDtstdgq bf fra mask s
  | .dtstex bf fra frb => Sys2Proof.Machine.execDtstex bf fra frb s
  | .dtstexq bf fra frb => Sys2Proof.Machine.execDtstexq bf fra frb s
  | .dtstsf bf fra frb => Sys2Proof.Machine.execDtstsf bf fra frb s
  | .dtstsfq bf fra frb => Sys2Proof.Machine.execDtstsfq bf fra frb s
  | .dquai frt te frb rmc rc => Sys2Proof.Machine.execDquai frt te frb rmc rc s
  | .dquaiq frt te frb rmc rc => Sys2Proof.Machine.execDquaiq frt te frb rmc rc s
  | .dqua frt fra frb rmc rc => Sys2Proof.Machine.execDqua frt fra frb rmc rc s
  | .dquaq frt fra frb rmc rc => Sys2Proof.Machine.execDquaq frt fra frb rmc rc s
  | .drrnd frt fra frb rmc rc => Sys2Proof.Machine.execDrrnd frt fra frb rmc rc s
  | .drrndq frt fra frb rmc rc => Sys2Proof.Machine.execDrrndq frt fra frb rmc rc s
  | .drintx frt r frb rmc rc => Sys2Proof.Machine.execDrintx frt r frb rmc rc s
  | .drintxq frt r frb rmc rc => Sys2Proof.Machine.execDrintxq frt r frb rmc rc s
  | .drintn frt r frb rmc rc => Sys2Proof.Machine.execDrintn frt r frb rmc rc s
  | .drintnq frt r frb rmc rc => Sys2Proof.Machine.execDrintnq frt r frb rmc rc s
  | .dctdp frt frb rc => Sys2Proof.Machine.execDctdp frt frb rc s
  | .dctqpq frt frb rc => Sys2Proof.Machine.execDctqpq frt frb rc s
  | .drsp frt frb rc => Sys2Proof.Machine.execDrsp frt frb rc s
  | .drdpq frt frb rc => Sys2Proof.Machine.execDrdpq frt frb rc s
  | .dcffixq frt frb rc => Sys2Proof.Machine.execDcffixq frt frb rc s
  | .dctfix frt frb rc => Sys2Proof.Machine.execDctfix frt frb rc s
  | .dctfixq frt frb rc => Sys2Proof.Machine.execDctfixq frt frb rc s
  | .ddedpd frt sp0 sp1 frb rc => Sys2Proof.Machine.execDdedpd frt sp0 sp1 frb rc s
  | .ddedpdq frt sp0 sp1 frb rc => Sys2Proof.Machine.execDdedpdq frt sp0 sp1 frb rc s
  | .denbcd frt sgn frb rc => Sys2Proof.Machine.execDenbcd frt sgn frb rc s
  | .denbcdq frt sgn frb rc => Sys2Proof.Machine.execDenbcdq frt sgn frb rc s
  | .dxex frt frb rc => Sys2Proof.Machine.execDxex frt frb rc s
  | .dxexq frt frb rc => Sys2Proof.Machine.execDxexq frt frb rc s
  | .diex frt fra frb rc => Sys2Proof.Machine.execDiex frt fra frb rc s
  | .diexq frt fra frb rc => Sys2Proof.Machine.execDiexq frt fra frb rc s
  | .dscli frt fra sh rc => Sys2Proof.Machine.execDscli frt fra sh rc s
  | .dscliq frt fra sh rc => Sys2Proof.Machine.execDscliq frt fra sh rc s
  | .dscri frt fra sh rc => Sys2Proof.Machine.execDscri frt fra sh rc s
  | .dscriq frt fra sh rc => Sys2Proof.Machine.execDscriq frt fra sh rc s

end Sys2Proof.Machine
end

