-- ==== Sys2Proof/Decode.lean ====
section
/-! DEFINITION. The instruction decoder and encoder (spec/30_encoding.md). A word is read as a number; `fld n a b` is its
field of bits a to b, bit 0 leftmost (00_scope.md R9, R10). -/

namespace Sys2Proof

/-- Instruction bits a to b of the word n (00_scope.md R10), bit 31 of weight 1. -/
def fld (n a b : Nat) : Nat := n / 2 ^ (31 - b) % 2 ^ (b + 1 - a)

/-- The register number in bits a to a+4 (30_encoding.md R86). -/
def regAt (n a : Nat) : FReg := Fin.ofNat 32 (fld n a (a + 4))

/-- One instruction bit. -/
def flagAt (n a : Nat) : Bool := fld n a a == 1

/-- The primary opcode of a row (30_encoding.md R95): 59 for the 64-bit forms, 63 for the quad forms. -/
def Op.opcd : Op → Nat
  | .dadd | .dsub | .dmul | .ddiv | .dcmpu | .dcmpo | .dtstdc | .dtstdg | .dtstex | .dtstsf | .dquai
  | .dqua | .drrnd | .drintx | .drintn | .dctdp | .drsp | .dctfix | .ddedpd | .denbcd | .dxex | .diex
  | .dscli | .dscri => 59
  | .daddq | .dsubq | .dmulq | .ddivq | .dcmpuq | .dcmpoq | .dtstdcq | .dtstdgq | .dtstexq | .dtstsfq
  | .dquaiq | .dquaq | .drrndq | .drintxq | .drintnq | .dctqpq | .drdpq | .dcffixq | .dctfixq | .ddedpdq
  | .denbcdq | .dxexq | .diexq | .dscliq | .dscriq => 63

/-- The extended opcode of a row (30_encoding.md R95). -/
def Op.xo : Op → Nat
  | .dadd | .daddq => 2
  | .dsub | .dsubq => 514
  | .dmul | .dmulq => 34
  | .ddiv | .ddivq => 546
  | .dcmpu | .dcmpuq => 642
  | .dcmpo | .dcmpoq => 130
  | .dtstdc | .dtstdcq => 194
  | .dtstdg | .dtstdgq => 226
  | .dtstex | .dtstexq => 162
  | .dtstsf | .dtstsfq => 674
  | .dquai | .dquaiq => 67
  | .dqua | .dquaq => 3
  | .drrnd | .drrndq => 35
  | .drintx | .drintxq => 99
  | .drintn | .drintnq => 227
  | .dctdp | .dctqpq => 258
  | .drsp | .drdpq => 770
  | .dcffixq => 802
  | .dctfix | .dctfixq => 290
  | .ddedpd | .ddedpdq => 322
  | .denbcd | .denbcdq => 834
  | .dxex | .dxexq => 354
  | .diex | .diexq => 866
  | .dscli | .dscliq => 66
  | .dscri | .dscriq => 98

/-- The row with primary opcode 59 that an extended-opcode field of bits 21:30 selects: the 8-bit Z23 opcodes first, then
the 9-bit Z22 opcodes, then the 10-bit X opcodes (30_encoding.md R82, R95; R98: the order cannot matter). -/
def row59 (xo : Nat) : Option Op :=
  match xo % 256 with
  | 67 => some .dquai
  | 3 => some .dqua
  | 35 => some .drrnd
  | 99 => some .drintx
  | 227 => some .drintn
  | _ =>
    match xo % 512 with
    | 194 => some .dtstdc
    | 226 => some .dtstdg
    | 66 => some .dscli
    | 98 => some .dscri
    | _ =>
      match xo with
      | 2 => some .dadd
      | 514 => some .dsub
      | 34 => some .dmul
      | 546 => some .ddiv
      | 642 => some .dcmpu
      | 130 => some .dcmpo
      | 162 => some .dtstex
      | 674 => some .dtstsf
      | 258 => some .dctdp
      | 770 => some .drsp
      | 290 => some .dctfix
      | 322 => some .ddedpd
      | 834 => some .denbcd
      | 354 => some .dxex
      | 866 => some .diex
      | _ => none

/-- The row with primary opcode 63 that an extended-opcode field of bits 21:30 selects: the 8-bit Z23 opcodes first, then
the 9-bit Z22 opcodes, then the 10-bit X opcodes (30_encoding.md R82, R95; R98: the order cannot matter). -/
def row63 (xo : Nat) : Option Op :=
  match xo % 256 with
  | 67 => some .dquaiq
  | 3 => some .dquaq
  | 35 => some .drrndq
  | 99 => some .drintxq
  | 227 => some .drintnq
  | _ =>
    match xo % 512 with
    | 194 => some .dtstdcq
    | 226 => some .dtstdgq
    | 66 => some .dscliq
    | 98 => some .dscriq
    | _ =>
      match xo with
      | 2 => some .daddq
      | 514 => some .dsubq
      | 34 => some .dmulq
      | 546 => some .ddivq
      | 642 => some .dcmpuq
      | 130 => some .dcmpoq
      | 162 => some .dtstexq
      | 674 => some .dtstsfq
      | 258 => some .dctqpq
      | 770 => some .drdpq
      | 802 => some .dcffixq
      | 290 => some .dctfixq
      | 322 => some .ddedpdq
      | 834 => some .denbcdq
      | 354 => some .dxexq
      | 866 => some .diexq
      | _ => none

/-- The row of R95 a word matches, if any (30_encoding.md R81, R98, R105). -/
def rowOf (n : Nat) : Option Op :=
  match fld n 0 5 with
  | 59 => row59 (fld n 21 30)
  | 63 => row63 (fld n 21 30)
  | _ => none

/-- Whether a word that matches a row has a reserved bit set (30_encoding.md R104, masks of R83 to R85). -/
def hasReservedBit (n : Nat) : Op → Bool
  | .dadd | .daddq | .dsub | .dsubq | .dmul | .dmulq | .ddiv | .ddivq | .dquai | .dquaiq | .dqua
  | .dquaq | .drrnd | .drrndq | .diex | .diexq | .dscli | .dscliq | .dscri | .dscriq => false
  | .dcmpu | .dcmpuq | .dcmpo | .dcmpoq | .dtstdc | .dtstdcq | .dtstdg | .dtstdgq | .dtstex | .dtstexq
  | .dtstsf | .dtstsfq => fld n 9 10 != 0 || fld n 31 31 != 0
  | .drintx | .drintxq | .drintn | .drintnq => fld n 11 14 != 0
  | .dctdp | .dctqpq | .drsp | .drdpq | .dcffixq | .dctfix | .dctfixq | .dxex | .dxexq => fld n 11 15 != 0
  | .ddedpd | .ddedpdq => fld n 13 15 != 0
  | .denbcd | .denbcdq => fld n 12 15 != 0

/-- The instruction of a row whose fields the word holds (30_encoding.md R83 to R86). -/
def buildInstr (n : Nat) : Op → Instr
  | .dadd => .dadd (regAt n 6) (regAt n 11) (regAt n 16) (flagAt n 31)
  | .daddq => .daddq (regAt n 6) (regAt n 11) (regAt n 16) (flagAt n 31)
  | .dsub => .dsub (regAt n 6) (regAt n 11) (regAt n 16) (flagAt n 31)
  | .dsubq => .dsubq (regAt n 6) (regAt n 11) (regAt n 16) (flagAt n 31)
  | .dmul => .dmul (regAt n 6) (regAt n 11) (regAt n 16) (flagAt n 31)
  | .dmulq => .dmulq (regAt n 6) (regAt n 11) (regAt n 16) (flagAt n 31)
  | .ddiv => .ddiv (regAt n 6) (regAt n 11) (regAt n 16) (flagAt n 31)
  | .ddivq => .ddivq (regAt n 6) (regAt n 11) (regAt n 16) (flagAt n 31)
  | .dcmpu => .dcmpu (Fin.ofNat 8 (fld n 6 8)) (regAt n 11) (regAt n 16)
  | .dcmpuq => .dcmpuq (Fin.ofNat 8 (fld n 6 8)) (regAt n 11) (regAt n 16)
  | .dcmpo => .dcmpo (Fin.ofNat 8 (fld n 6 8)) (regAt n 11) (regAt n 16)
  | .dcmpoq => .dcmpoq (Fin.ofNat 8 (fld n 6 8)) (regAt n 11) (regAt n 16)
  | .dtstdc => .dtstdc (Fin.ofNat 8 (fld n 6 8)) (regAt n 11) (BitVec.ofNat 6 (fld n 16 21))
  | .dtstdcq => .dtstdcq (Fin.ofNat 8 (fld n 6 8)) (regAt n 11) (BitVec.ofNat 6 (fld n 16 21))
  | .dtstdg => .dtstdg (Fin.ofNat 8 (fld n 6 8)) (regAt n 11) (BitVec.ofNat 6 (fld n 16 21))
  | .dtstdgq => .dtstdgq (Fin.ofNat 8 (fld n 6 8)) (regAt n 11) (BitVec.ofNat 6 (fld n 16 21))
  | .dtstex => .dtstex (Fin.ofNat 8 (fld n 6 8)) (regAt n 11) (regAt n 16)
  | .dtstexq => .dtstexq (Fin.ofNat 8 (fld n 6 8)) (regAt n 11) (regAt n 16)
  | .dtstsf => .dtstsf (Fin.ofNat 8 (fld n 6 8)) (regAt n 11) (regAt n 16)
  | .dtstsfq => .dtstsfq (Fin.ofNat 8 (fld n 6 8)) (regAt n 11) (regAt n 16)
  | .dquai => .dquai (regAt n 6) (BitVec.ofNat 5 (fld n 11 15)) (regAt n 16) (Fin.ofNat 4 (fld n 21 22)) (flagAt n 31)
  | .dquaiq => .dquaiq (regAt n 6) (BitVec.ofNat 5 (fld n 11 15)) (regAt n 16) (Fin.ofNat 4 (fld n 21 22)) (flagAt n 31)
  | .dqua => .dqua (regAt n 6) (regAt n 11) (regAt n 16) (Fin.ofNat 4 (fld n 21 22)) (flagAt n 31)
  | .dquaq => .dquaq (regAt n 6) (regAt n 11) (regAt n 16) (Fin.ofNat 4 (fld n 21 22)) (flagAt n 31)
  | .drrnd => .drrnd (regAt n 6) (regAt n 11) (regAt n 16) (Fin.ofNat 4 (fld n 21 22)) (flagAt n 31)
  | .drrndq => .drrndq (regAt n 6) (regAt n 11) (regAt n 16) (Fin.ofNat 4 (fld n 21 22)) (flagAt n 31)
  | .drintx => .drintx (regAt n 6) (flagAt n 15) (regAt n 16) (Fin.ofNat 4 (fld n 21 22)) (flagAt n 31)
  | .drintxq => .drintxq (regAt n 6) (flagAt n 15) (regAt n 16) (Fin.ofNat 4 (fld n 21 22)) (flagAt n 31)
  | .drintn => .drintn (regAt n 6) (flagAt n 15) (regAt n 16) (Fin.ofNat 4 (fld n 21 22)) (flagAt n 31)
  | .drintnq => .drintnq (regAt n 6) (flagAt n 15) (regAt n 16) (Fin.ofNat 4 (fld n 21 22)) (flagAt n 31)
  | .dctdp => .dctdp (regAt n 6) (regAt n 16) (flagAt n 31)
  | .dctqpq => .dctqpq (regAt n 6) (regAt n 16) (flagAt n 31)
  | .drsp => .drsp (regAt n 6) (regAt n 16) (flagAt n 31)
  | .drdpq => .drdpq (regAt n 6) (regAt n 16) (flagAt n 31)
  | .dcffixq => .dcffixq (regAt n 6) (regAt n 16) (flagAt n 31)
  | .dctfix => .dctfix (regAt n 6) (regAt n 16) (flagAt n 31)
  | .dctfixq => .dctfixq (regAt n 6) (regAt n 16) (flagAt n 31)
  | .ddedpd => .ddedpd (regAt n 6) (flagAt n 11) (flagAt n 12) (regAt n 16) (flagAt n 31)
  | .ddedpdq => .ddedpdq (regAt n 6) (flagAt n 11) (flagAt n 12) (regAt n 16) (flagAt n 31)
  | .denbcd => .denbcd (regAt n 6) (flagAt n 11) (regAt n 16) (flagAt n 31)
  | .denbcdq => .denbcdq (regAt n 6) (flagAt n 11) (regAt n 16) (flagAt n 31)
  | .dxex => .dxex (regAt n 6) (regAt n 16) (flagAt n 31)
  | .dxexq => .dxexq (regAt n 6) (regAt n 16) (flagAt n 31)
  | .diex => .diex (regAt n 6) (regAt n 11) (regAt n 16) (flagAt n 31)
  | .diexq => .diexq (regAt n 6) (regAt n 11) (regAt n 16) (flagAt n 31)
  | .dscli => .dscli (regAt n 6) (regAt n 11) (Fin.ofNat 64 (fld n 16 21)) (flagAt n 31)
  | .dscliq => .dscliq (regAt n 6) (regAt n 11) (Fin.ofNat 64 (fld n 16 21)) (flagAt n 31)
  | .dscri => .dscri (regAt n 6) (regAt n 11) (Fin.ofNat 64 (fld n 16 21)) (flagAt n 31)
  | .dscriq => .dscriq (regAt n 6) (regAt n 11) (Fin.ofNat 64 (fld n 16 21)) (flagAt n 31)

/-- The instruction a 32-bit word stands for, or why it stands for none (30_encoding.md R95, R103 to R105). -/
def decodeWord (w : InsnWord) : Except Undecodable Instr :=
  match rowOf w.toNat with
  | none => .error .unallocated
  | some op =>
    if hasReservedBit w.toNat op then .error .reservedBits
    else if (buildInstr w.toNat op).wellFormed then .ok (buildInstr w.toNat op)
    else .error .invalidForm

/-- The word held by consecutive bytes of storage, lowest address first: big-endian when the parameter `InsnBigEndian` is
true, little-endian otherwise (20_memory.md R66, 92_eei_decisions.md D2). -/
def wordOfBytes (bigEndian : Bool) (bs : List Byte) : InsnWord :=
  (if bigEndian then bs else bs.reverse).foldl (fun w b => w <<< 8 ||| b.setWidth 32) 0

/-- The four bytes that hold a word in storage, lowest address first (20_memory.md R66). -/
def bytesOfWord (bigEndian : Bool) (w : InsnWord) : List Byte :=
  let b := [w.extractLsb' 24 8, w.extractLsb' 16 8, w.extractLsb' 8 8, w.extractLsb' 0 8]
  if bigEndian then b else b.reverse

/-- Decodes the instruction at the head of a list of bytes and returns it with the bytes after it. Fewer than four bytes
hold no instruction (30_encoding.md R80: every instruction is one 32-bit word). -/
def decodeBytes (bigEndian : Bool) (bs : List Byte) : Except Undecodable (Instr × List Byte) :=
  if bs.length < 4 then .error .unallocated
  else
    match decodeWord (wordOfBytes bigEndian (bs.take 4)) with
    | .ok i => .ok (i, bs.drop 4)
    | .error e => .error e

/-- The instruction the decoder reads from a word numbered as spec/opcode_table.json numbers it, laid out as the hardware
stores it with `InsnBigEndian` at its default, true (20_memory.md R66). Bits from `nbits` up are 0. -/
def decodeTableWord (nbits w : Nat) : Option Instr :=
  match decodeBytes true (bytesOfWord true (BitVec.ofNat 32 (w % 2 ^ nbits))) with
  | .ok (i, _) => some i
  | .error _ => none

/-- The opcode and extended-opcode bits of a row: the base word of 30_encoding.md R95. -/
def Op.baseWord (op : Op) : Nat := op.opcd * 2 ^ 26 + op.xo * 2

/-- The fields of an instruction at their places in the word (30_encoding.md R96). -/
def Instr.fieldBits : Instr → Nat
  | .dadd frt fra frb rc
  | .daddq frt fra frb rc
  | .dsub frt fra frb rc
  | .dsubq frt fra frb rc
  | .dmul frt fra frb rc
  | .dmulq frt fra frb rc
  | .ddiv frt fra frb rc
  | .ddivq frt fra frb rc
  | .diex frt fra frb rc
  | .diexq frt fra frb rc =>
    frt.val * 2 ^ 21 + fra.val * 2 ^ 16 + frb.val * 2 ^ 11 + rc.toNat
  | .dcmpu bf fra frb
  | .dcmpuq bf fra frb
  | .dcmpo bf fra frb
  | .dcmpoq bf fra frb
  | .dtstex bf fra frb
  | .dtstexq bf fra frb
  | .dtstsf bf fra frb
  | .dtstsfq bf fra frb =>
    bf.val * 2 ^ 23 + fra.val * 2 ^ 16 + frb.val * 2 ^ 11
  | .dctdp frt frb rc
  | .dctqpq frt frb rc
  | .drsp frt frb rc
  | .drdpq frt frb rc
  | .dcffixq frt frb rc
  | .dctfix frt frb rc
  | .dctfixq frt frb rc
  | .dxex frt frb rc
  | .dxexq frt frb rc =>
    frt.val * 2 ^ 21 + frb.val * 2 ^ 11 + rc.toNat
  | .ddedpd frt sp0 sp1 frb rc
  | .ddedpdq frt sp0 sp1 frb rc =>
    frt.val * 2 ^ 21 + sp0.toNat * 2 ^ 20 + sp1.toNat * 2 ^ 19 + frb.val * 2 ^ 11 + rc.toNat
  | .denbcd frt sgn frb rc
  | .denbcdq frt sgn frb rc =>
    frt.val * 2 ^ 21 + sgn.toNat * 2 ^ 20 + frb.val * 2 ^ 11 + rc.toNat
  | .dtstdc bf fra mask
  | .dtstdcq bf fra mask
  | .dtstdg bf fra mask
  | .dtstdgq bf fra mask =>
    bf.val * 2 ^ 23 + fra.val * 2 ^ 16 + mask.toNat * 2 ^ 10
  | .dscli frt fra sh rc
  | .dscliq frt fra sh rc
  | .dscri frt fra sh rc
  | .dscriq frt fra sh rc =>
    frt.val * 2 ^ 21 + fra.val * 2 ^ 16 + sh.val * 2 ^ 10 + rc.toNat
  | .dqua frt fra frb rmc rc
  | .dquaq frt fra frb rmc rc
  | .drrnd frt fra frb rmc rc
  | .drrndq frt fra frb rmc rc =>
    frt.val * 2 ^ 21 + fra.val * 2 ^ 16 + frb.val * 2 ^ 11 + rmc.val * 2 ^ 9 + rc.toNat
  | .dquai frt te frb rmc rc
  | .dquaiq frt te frb rmc rc =>
    frt.val * 2 ^ 21 + te.toNat * 2 ^ 16 + frb.val * 2 ^ 11 + rmc.val * 2 ^ 9 + rc.toNat
  | .drintx frt r frb rmc rc
  | .drintxq frt r frb rmc rc
  | .drintn frt r frb rmc rc
  | .drintnq frt r frb rmc rc =>
    frt.val * 2 ^ 21 + r.toNat * 2 ^ 16 + frb.val * 2 ^ 11 + rmc.val * 2 ^ 9 + rc.toNat

/-- The word of an instruction (30_encoding.md R96). For an ill-formed instruction it is the word of the invalid form. -/
def encode (i : Instr) : InsnWord := BitVec.ofNat 32 (i.op.baseWord + i.fieldBits)

/-- The bytes of an instruction in storage (20_memory.md R66). -/
def encodeBytes (bigEndian : Bool) (i : Instr) : List Byte := bytesOfWord bigEndian (encode i)

end Sys2Proof
end

