-- ==== Sys2Proof/Machine/Fetch.lean ====
section
/-! DEFINITION. Fetching an instruction, and what an instruction reads, which bounds how long Imprecise Recoverable Mode may
leave an exception pending (spec/20_memory.md R66, 60_exceptions.md R378). -/

namespace Sys2Proof.Machine

/-- What stands at pc. -/
inductive Fetched where
  /-- A byte of the word has no value (log entry 2). -/
  | noValue (addr : Nat)
  /-- A word that is refused (30_encoding.md R103 to R105). -/
  | bad (why : Undecodable) (word : InsnWord)
  /-- An instruction. -/
  | insn (i : Instr)
  deriving DecidableEq, Repr

/-- The instruction in the four bytes at pc (20_memory.md R66). -/
def fetch (s : State) : Fetched :=
  match memRead s.mem s.pc 4 with
  | .error a => .noValue a
  | .ok bs =>
    let w := wordOfBytes s.insnBigEndian bs
    match decodeWord w with
    | .error why => .bad why w
    | .ok i => .insn i

/-- Whether pc is a multiple of 4 (10_state.md R50). -/
def pcAligned (s : State) : Bool := s.pc.toNat % 4 == 0

/-- The two registers of a pair. -/
def pairRegs (r : FReg) : List FReg := [r, oddOf r]

/-- The floating-point registers an instruction reads (60_exceptions.md R378, 30_encoding.md R99). -/
def fprReads : Instr → List FReg
  | .dadd _ fra frb _ => [fra, frb]
  | .daddq _ fra frb _ => pairRegs fra ++ pairRegs frb
  | .dsub _ fra frb _ => [fra, frb]
  | .dsubq _ fra frb _ => pairRegs fra ++ pairRegs frb
  | .dmul _ fra frb _ => [fra, frb]
  | .dmulq _ fra frb _ => pairRegs fra ++ pairRegs frb
  | .ddiv _ fra frb _ => [fra, frb]
  | .ddivq _ fra frb _ => pairRegs fra ++ pairRegs frb
  | .dcmpu _ fra frb => [fra, frb]
  | .dcmpuq _ fra frb => pairRegs fra ++ pairRegs frb
  | .dcmpo _ fra frb => [fra, frb]
  | .dcmpoq _ fra frb => pairRegs fra ++ pairRegs frb
  | .dtstdc _ fra _ => [fra]
  | .dtstdcq _ fra _ => pairRegs fra
  | .dtstdg _ fra _ => [fra]
  | .dtstdgq _ fra _ => pairRegs fra
  | .dtstex _ fra frb => [fra, frb]
  | .dtstexq _ fra frb => pairRegs fra ++ pairRegs frb
  | .dtstsf _ fra frb => [fra, frb]
  | .dtstsfq _ fra frb => [fra] ++ pairRegs frb
  | .dquai _ _ frb _ _ => [frb]
  | .dquaiq _ _ frb _ _ => pairRegs frb
  | .dqua _ fra frb _ _ => [fra, frb]
  | .dquaq _ fra frb _ _ => pairRegs fra ++ pairRegs frb
  | .drrnd _ fra frb _ _ => [fra, frb]
  | .drrndq _ fra frb _ _ => [fra] ++ pairRegs frb
  | .drintx _ _ frb _ _ => [frb]
  | .drintxq _ _ frb _ _ => pairRegs frb
  | .drintn _ _ frb _ _ => [frb]
  | .drintnq _ _ frb _ _ => pairRegs frb
  | .dctdp _ frb _ => [frb]
  | .dctqpq _ frb _ => [frb]
  | .drsp _ frb _ => [frb]
  | .drdpq _ frb _ => pairRegs frb
  | .dcffixq _ frb _ => [frb]
  | .dctfix _ frb _ => [frb]
  | .dctfixq _ frb _ => pairRegs frb
  | .ddedpd _ _ _ frb _ => [frb]
  | .ddedpdq _ _ _ frb _ => pairRegs frb
  | .denbcd _ _ frb _ => [frb]
  | .denbcdq _ _ frb _ => pairRegs frb
  | .dxex _ frb _ => [frb]
  | .dxexq _ frb _ => pairRegs frb
  | .diex _ fra frb _ => [fra, frb]
  | .diexq _ fra frb _ => [fra] ++ pairRegs frb
  | .dscli _ fra _ _ => [fra]
  | .dscliq _ fra _ _ => pairRegs fra
  | .dscri _ fra _ _ => [fra]
  | .dscriq _ fra _ _ => pairRegs fra

/-- The FPSCR bits a record form reads: FX, FEX, VX, OX (10_state.md R47). -/
def recordReads (rc : Bool) : List Nat := if rc then [32, 33, 34, 35] else []

/-- The bits `Commit` takes from others: VXSOFT, bit 54 and the five enables (10_state.md R31). The sticky bits that it
ORs into, and FX, VX and FEX that it makes of them, are no read in the sense of R378: in program P4d of 95_test_vectors.md a
`dmul` after a `ddiv.` that has set ZX, FX and FEX "reads FPR[3], not FPR[4], the FPSCR fields or CR[1] written by the ddiv"
(log entry 6). -/
def commitReads : List Nat := [53, 54, 56, 57, 58, 59, 60]

/-- DRN (10_state.md R32). -/
def drnReads : List Nat := [29, 30, 31]

/-- DRN, when RMC selects it (30_encoding.md R88). -/
def rmcReads (r : Bool) (rmc : Fin 4) : List Nat := if r == false && rmc == 3 then drnReads else []

/-- The FPSCR bits an instruction reads (60_exceptions.md R378; 10_state.md R31; 41_dfp_execution_model.md R164, R207). -/
def fpscrReads : Instr → List Nat
  | .dadd _ _ _ rc => drnReads ++ commitReads ++ recordReads rc
  | .daddq _ _ _ rc => drnReads ++ commitReads ++ recordReads rc
  | .dsub _ _ _ rc => drnReads ++ commitReads ++ recordReads rc
  | .dsubq _ _ _ rc => drnReads ++ commitReads ++ recordReads rc
  | .dmul _ _ _ rc => drnReads ++ commitReads ++ recordReads rc
  | .dmulq _ _ _ rc => drnReads ++ commitReads ++ recordReads rc
  | .ddiv _ _ _ rc => drnReads ++ commitReads ++ recordReads rc
  | .ddivq _ _ _ rc => drnReads ++ commitReads ++ recordReads rc
  | .dcmpu _ _ _ => commitReads
  | .dcmpuq _ _ _ => commitReads
  | .dcmpo _ _ _ => commitReads
  | .dcmpoq _ _ _ => commitReads
  | .dtstdc _ _ _ => commitReads
  | .dtstdcq _ _ _ => commitReads
  | .dtstdg _ _ _ => commitReads
  | .dtstdgq _ _ _ => commitReads
  | .dtstex _ _ _ => commitReads
  | .dtstexq _ _ _ => commitReads
  | .dtstsf _ _ _ => commitReads
  | .dtstsfq _ _ _ => commitReads
  | .dquai _ _ _ rmc rc => rmcReads false rmc ++ commitReads ++ recordReads rc
  | .dquaiq _ _ _ rmc rc => rmcReads false rmc ++ commitReads ++ recordReads rc
  | .dqua _ _ _ rmc rc => rmcReads false rmc ++ commitReads ++ recordReads rc
  | .dquaq _ _ _ rmc rc => rmcReads false rmc ++ commitReads ++ recordReads rc
  | .drrnd _ _ _ rmc rc => rmcReads false rmc ++ commitReads ++ recordReads rc
  | .drrndq _ _ _ rmc rc => rmcReads false rmc ++ commitReads ++ recordReads rc
  | .drintx _ r _ rmc rc => rmcReads r rmc ++ commitReads ++ recordReads rc
  | .drintxq _ r _ rmc rc => rmcReads r rmc ++ commitReads ++ recordReads rc
  | .drintn _ r _ rmc rc => rmcReads r rmc ++ commitReads ++ recordReads rc
  | .drintnq _ r _ rmc rc => rmcReads r rmc ++ commitReads ++ recordReads rc
  | .dctdp _ _ rc => commitReads ++ recordReads rc
  | .dctqpq _ _ rc => commitReads ++ recordReads rc
  | .drsp _ _ rc => drnReads ++ commitReads ++ recordReads rc
  | .drdpq _ _ rc => drnReads ++ commitReads ++ recordReads rc
  | .dcffixq _ _ rc => commitReads ++ recordReads rc
  | .dctfix _ _ rc => drnReads ++ commitReads ++ recordReads rc
  | .dctfixq _ _ rc => drnReads ++ commitReads ++ recordReads rc
  | .ddedpd _ _ _ _ rc => recordReads rc
  | .ddedpdq _ _ _ _ rc => recordReads rc
  | .denbcd _ _ _ rc => commitReads ++ recordReads rc
  | .denbcdq _ _ _ rc => commitReads ++ recordReads rc
  | .dxex _ _ rc => recordReads rc
  | .dxexq _ _ rc => recordReads rc
  | .diex _ _ _ rc => recordReads rc
  | .diexq _ _ _ rc => recordReads rc
  | .dscli _ _ _ rc => recordReads rc
  | .dscliq _ _ _ rc => recordReads rc
  | .dscri _ _ _ rc => recordReads rc
  | .dscriq _ _ _ rc => recordReads rc

/-- Whether an instruction reads something the excepting instructions wrote. -/
def readsPending (i : Instr) (s : State) : Bool :=
  (fprReads i).any (fun r => s.pendingFprs.contains r) || (fpscrReads i).any (bitAt s.pendingFpscr)

/-- Whether a pending exception must be delivered before the instruction: in Imprecise Recoverable Mode, before one that
reads what the excepting instructions wrote (60_exceptions.md R378). -/
def mustTrapFirst (i : Instr) (s : State) : Bool :=
  s.pending && excModeOf s.feMode == .impreciseRecoverable && readsPending i s

/-- Whether a pending exception is delivered before the next instruction by free choice (60_exceptions.md R378; log entry
4), also when the mode has become Ignore Exceptions or Precise Mode since (log entry 17). -/
def choosesTrap (s : State) : Bool := s.pending && Config.trapBeforeNext s.freeCount

/-- A pending exception delivered before the instruction at pc begins (60_exceptions.md R378). -/
def deliverPending (s : State) : State := takeTrap s.pc s.drawFree

/-- The bytes of a word placed where the fetch finds them. -/
def placeWord (s : State) (w : InsnWord) : State :=
  { s with mem := memWrite s.mem s.pc (bytesOfWord s.insnBigEndian w) }

end Sys2Proof.Machine
end

