-- ==== Sys2Proof/Machine/Step.lean ====
section
/-! DEFINITION. One step of the machine (spec/10_state.md R50, 20_memory.md R66, 60_exceptions.md R377, R378). -/

namespace Sys2Proof.Machine

/-- A trapped machine does not step (R377). A pending exception may be delivered before the instruction, and in Imprecise
Recoverable Mode must be before one that reads what the excepting instructions wrote (R378); otherwise the instruction at
pc runs. -/
def step (s : State) : Host.Outcome State Fault Refusal :=
  match s.trapAt with
  | some a => .fault (.trapped a)
  | none =>
    if choosesTrap s then .next (deliverPending s)
    else if pcAligned s then
      match fetch s with
      | .noValue a => .fault (.unwrittenByte a)
      | .bad why w => .refused (.refusedWord why w)
      | .insn i => if mustTrapFirst i s then .next (deliverPending s) else exec i s
    else .fault (.misalignedPc s.pc)

/-- The instruction word w, its bits from nbits up zero, stored where the fetch finds it: what loading a program from
outside the machine does (log entry 15). -/
def State.withFetchWord (s : State) (nbits w : Nat) : State := placeWord s (BitVec.ofNat 32 (w % 2 ^ nbits))

end Sys2Proof.Machine
end

