-- ==== Sys2Proof/Safety.lean ====
section
/-! DEFINITION. The terms in which claims about the machine are stated: what an instruction may change, what completing
means, and the invariant of every step. -/

namespace Sys2Proof.Machine

/-- The floating-point registers an instruction may write: FRT, or both registers of FRTp (30_encoding.md R86, 10_state.md
R22). Compare and test instructions write none. -/
def fprTargets : Instr → List FReg
  | .dadd frt _ _ _ => [frt]
  | .daddq frt _ _ _ => pairRegs frt
  | .dsub frt _ _ _ => [frt]
  | .dsubq frt _ _ _ => pairRegs frt
  | .dmul frt _ _ _ => [frt]
  | .dmulq frt _ _ _ => pairRegs frt
  | .ddiv frt _ _ _ => [frt]
  | .ddivq frt _ _ _ => pairRegs frt
  | .dcmpu _ _ _ => []
  | .dcmpuq _ _ _ => []
  | .dcmpo _ _ _ => []
  | .dcmpoq _ _ _ => []
  | .dtstdc _ _ _ => []
  | .dtstdcq _ _ _ => []
  | .dtstdg _ _ _ => []
  | .dtstdgq _ _ _ => []
  | .dtstex _ _ _ => []
  | .dtstexq _ _ _ => []
  | .dtstsf _ _ _ => []
  | .dtstsfq _ _ _ => []
  | .dquai frt _ _ _ _ => [frt]
  | .dquaiq frt _ _ _ _ => pairRegs frt
  | .dqua frt _ _ _ _ => [frt]
  | .dquaq frt _ _ _ _ => pairRegs frt
  | .drrnd frt _ _ _ _ => [frt]
  | .drrndq frt _ _ _ _ => pairRegs frt
  | .drintx frt _ _ _ _ => [frt]
  | .drintxq frt _ _ _ _ => pairRegs frt
  | .drintn frt _ _ _ _ => [frt]
  | .drintnq frt _ _ _ _ => pairRegs frt
  | .dctdp frt _ _ => [frt]
  | .dctqpq frt _ _ => pairRegs frt
  | .drsp frt _ _ => [frt]
  | .drdpq frt _ _ => pairRegs frt
  | .dcffixq frt _ _ => pairRegs frt
  | .dctfix frt _ _ => [frt]
  | .dctfixq frt _ _ => [frt]
  | .ddedpd frt _ _ _ _ => [frt]
  | .ddedpdq frt _ _ _ _ => pairRegs frt
  | .denbcd frt _ _ _ => [frt]
  | .denbcdq frt _ _ _ => pairRegs frt
  | .dxex frt _ _ => [frt]
  | .dxexq frt _ _ => [frt]
  | .diex frt _ _ _ => [frt]
  | .diexq frt _ _ _ => pairRegs frt
  | .dscli frt _ _ _ => [frt]
  | .dscliq frt _ _ _ => pairRegs frt
  | .dscri frt _ _ _ => [frt]
  | .dscriq frt _ _ _ => pairRegs frt

/-- The condition-register fields an instruction may write: BF, or field 1 when Rc = 1 (10_state.md R47, R48). -/
def crTargets : Instr → List CRField
  | .dadd _ _ _ rc => if rc then [1] else []
  | .daddq _ _ _ rc => if rc then [1] else []
  | .dsub _ _ _ rc => if rc then [1] else []
  | .dsubq _ _ _ rc => if rc then [1] else []
  | .dmul _ _ _ rc => if rc then [1] else []
  | .dmulq _ _ _ rc => if rc then [1] else []
  | .ddiv _ _ _ rc => if rc then [1] else []
  | .ddivq _ _ _ rc => if rc then [1] else []
  | .dcmpu bf _ _ => [bf]
  | .dcmpuq bf _ _ => [bf]
  | .dcmpo bf _ _ => [bf]
  | .dcmpoq bf _ _ => [bf]
  | .dtstdc bf _ _ => [bf]
  | .dtstdcq bf _ _ => [bf]
  | .dtstdg bf _ _ => [bf]
  | .dtstdgq bf _ _ => [bf]
  | .dtstex bf _ _ => [bf]
  | .dtstexq bf _ _ => [bf]
  | .dtstsf bf _ _ => [bf]
  | .dtstsfq bf _ _ => [bf]
  | .dquai _ _ _ _ rc => if rc then [1] else []
  | .dquaiq _ _ _ _ rc => if rc then [1] else []
  | .dqua _ _ _ _ rc => if rc then [1] else []
  | .dquaq _ _ _ _ rc => if rc then [1] else []
  | .drrnd _ _ _ _ rc => if rc then [1] else []
  | .drrndq _ _ _ _ rc => if rc then [1] else []
  | .drintx _ _ _ _ rc => if rc then [1] else []
  | .drintxq _ _ _ _ rc => if rc then [1] else []
  | .drintn _ _ _ _ rc => if rc then [1] else []
  | .drintnq _ _ _ _ rc => if rc then [1] else []
  | .dctdp _ _ rc => if rc then [1] else []
  | .dctqpq _ _ rc => if rc then [1] else []
  | .drsp _ _ rc => if rc then [1] else []
  | .drdpq _ _ rc => if rc then [1] else []
  | .dcffixq _ _ rc => if rc then [1] else []
  | .dctfix _ _ rc => if rc then [1] else []
  | .dctfixq _ _ rc => if rc then [1] else []
  | .ddedpd _ _ _ _ rc => if rc then [1] else []
  | .ddedpdq _ _ _ _ rc => if rc then [1] else []
  | .denbcd _ _ _ rc => if rc then [1] else []
  | .denbcdq _ _ _ rc => if rc then [1] else []
  | .dxex _ _ rc => if rc then [1] else []
  | .dxexq _ _ rc => if rc then [1] else []
  | .diex _ _ _ rc => if rc then [1] else []
  | .diexq _ _ _ rc => if rc then [1] else []
  | .dscli _ _ _ rc => if rc then [1] else []
  | .dscliq _ _ _ rc => if rc then [1] else []
  | .dscri _ _ _ rc => if rc then [1] else []
  | .dscriq _ _ _ rc => if rc then [1] else []

/-- FX, FEX and VX (10_state.md R33 to R35). -/
def summaryBits : List Nat := [32, 33, 34]

/-- FR, FI and FPRF (10_state.md R39, R40). -/
def resultBits : List Nat := [45, 46, 47, 48, 49, 50, 51]

/-- FPCC (10_state.md R41). -/
def fpccBits : List Nat := [48, 49, 50, 51]

/-- The FPSCR bits an instruction may change: its "Special Registers Altered" with the summary bits
(41_dfp_execution_model.md R205, R207). -/
def fpscrTargets : Instr → List Nat
  | .dadd _ _ _ _ => summaryBits ++ resultBits ++ [35, 36, 38, 39, 40]
  | .daddq _ _ _ _ => summaryBits ++ resultBits ++ [35, 36, 38, 39, 40]
  | .dsub _ _ _ _ => summaryBits ++ resultBits ++ [35, 36, 38, 39, 40]
  | .dsubq _ _ _ _ => summaryBits ++ resultBits ++ [35, 36, 38, 39, 40]
  | .dmul _ _ _ _ => summaryBits ++ resultBits ++ [35, 36, 38, 39, 43]
  | .dmulq _ _ _ _ => summaryBits ++ resultBits ++ [35, 36, 38, 39, 43]
  | .ddiv _ _ _ _ => summaryBits ++ resultBits ++ [35, 36, 37, 38, 39, 41, 42]
  | .ddivq _ _ _ _ => summaryBits ++ resultBits ++ [35, 36, 37, 38, 39, 41, 42]
  | .dcmpu _ _ _ => summaryBits ++ fpccBits ++ [39]
  | .dcmpuq _ _ _ => summaryBits ++ fpccBits ++ [39]
  | .dcmpo _ _ _ => summaryBits ++ fpccBits ++ [39, 44]
  | .dcmpoq _ _ _ => summaryBits ++ fpccBits ++ [39, 44]
  | .dtstdc _ _ _ => [33, 34] ++ fpccBits
  | .dtstdcq _ _ _ => [33, 34] ++ fpccBits
  | .dtstdg _ _ _ => [33, 34] ++ fpccBits
  | .dtstdgq _ _ _ => [33, 34] ++ fpccBits
  | .dtstex _ _ _ => [33, 34] ++ fpccBits
  | .dtstexq _ _ _ => [33, 34] ++ fpccBits
  | .dtstsf _ _ _ => [33, 34] ++ fpccBits
  | .dtstsfq _ _ _ => [33, 34] ++ fpccBits
  | .dquai _ _ _ _ _ => summaryBits ++ resultBits ++ [38, 39, 55]
  | .dquaiq _ _ _ _ _ => summaryBits ++ resultBits ++ [38, 39, 55]
  | .dqua _ _ _ _ _ => summaryBits ++ resultBits ++ [38, 39, 55]
  | .dquaq _ _ _ _ _ => summaryBits ++ resultBits ++ [38, 39, 55]
  | .drrnd _ _ _ _ _ => summaryBits ++ resultBits ++ [38, 39, 55]
  | .drrndq _ _ _ _ _ => summaryBits ++ resultBits ++ [38, 39, 55]
  | .drintx _ _ _ _ _ => summaryBits ++ resultBits ++ [38, 39]
  | .drintxq _ _ _ _ _ => summaryBits ++ resultBits ++ [38, 39]
  | .drintn _ _ _ _ _ => summaryBits ++ resultBits ++ [39]
  | .drintnq _ _ _ _ _ => summaryBits ++ resultBits ++ [39]
  | .dctdp _ _ _ => [33, 34, 47] ++ fpccBits
  | .dctqpq _ _ _ => summaryBits ++ resultBits ++ [39]
  | .drsp _ _ _ => summaryBits ++ resultBits ++ [35, 36, 38]
  | .drdpq _ _ _ => summaryBits ++ resultBits ++ [35, 36, 38, 39]
  | .dcffixq _ _ _ => [33, 34, 47] ++ fpccBits
  | .dctfix _ _ _ => summaryBits ++ [38, 39, 45, 46, 55]
  | .dctfixq _ _ _ => summaryBits ++ [38, 39, 45, 46, 55]
  | .ddedpd _ _ _ _ _ => []
  | .ddedpdq _ _ _ _ _ => []
  | .denbcd _ _ _ _ => summaryBits ++ resultBits ++ [55]
  | .denbcdq _ _ _ _ => summaryBits ++ resultBits ++ [55]
  | .dxex _ _ _ => []
  | .dxexq _ _ _ => []
  | .diex _ _ _ _ => []
  | .diexq _ _ _ _ => []
  | .dscli _ _ _ _ => []
  | .dscliq _ _ _ _ => []
  | .dscri _ _ _ _ => []
  | .dscriq _ _ _ _ => []

/-- The record bit of an instruction; compare and test instructions have none (30_encoding.md R86, 10_state.md R47). -/
def recordBit : Instr → Bool
  | .dadd _ _ _ rc => rc
  | .daddq _ _ _ rc => rc
  | .dsub _ _ _ rc => rc
  | .dsubq _ _ _ rc => rc
  | .dmul _ _ _ rc => rc
  | .dmulq _ _ _ rc => rc
  | .ddiv _ _ _ rc => rc
  | .ddivq _ _ _ rc => rc
  | .dcmpu _ _ _ => false
  | .dcmpuq _ _ _ => false
  | .dcmpo _ _ _ => false
  | .dcmpoq _ _ _ => false
  | .dtstdc _ _ _ => false
  | .dtstdcq _ _ _ => false
  | .dtstdg _ _ _ => false
  | .dtstdgq _ _ _ => false
  | .dtstex _ _ _ => false
  | .dtstexq _ _ _ => false
  | .dtstsf _ _ _ => false
  | .dtstsfq _ _ _ => false
  | .dquai _ _ _ _ rc => rc
  | .dquaiq _ _ _ _ rc => rc
  | .dqua _ _ _ _ rc => rc
  | .dquaq _ _ _ _ rc => rc
  | .drrnd _ _ _ _ rc => rc
  | .drrndq _ _ _ _ rc => rc
  | .drintx _ _ _ _ rc => rc
  | .drintxq _ _ _ _ rc => rc
  | .drintn _ _ _ _ rc => rc
  | .drintnq _ _ _ _ rc => rc
  | .dctdp _ _ rc => rc
  | .dctqpq _ _ rc => rc
  | .drsp _ _ rc => rc
  | .drdpq _ _ rc => rc
  | .dcffixq _ _ rc => rc
  | .dctfix _ _ rc => rc
  | .dctfixq _ _ rc => rc
  | .ddedpd _ _ _ _ rc => rc
  | .ddedpdq _ _ _ _ rc => rc
  | .denbcd _ _ _ rc => rc
  | .denbcdq _ _ _ rc => rc
  | .dxex _ _ rc => rc
  | .dxexq _ _ rc => rc
  | .diex _ _ _ rc => rc
  | .diexq _ _ _ rc => rc
  | .dscli _ _ _ rc => rc
  | .dscliq _ _ _ rc => rc
  | .dscri _ _ _ rc => rc
  | .dscriq _ _ _ rc => rc

/-- The compare and test instructions (43_compare.md R240, 44_test.md R250), the ones with a field BF. -/
def isCompareOrTest : Instr → Bool
  | .dadd _ _ _ _ => false
  | .daddq _ _ _ _ => false
  | .dsub _ _ _ _ => false
  | .dsubq _ _ _ _ => false
  | .dmul _ _ _ _ => false
  | .dmulq _ _ _ _ => false
  | .ddiv _ _ _ _ => false
  | .ddivq _ _ _ _ => false
  | .dcmpu _ _ _ => true
  | .dcmpuq _ _ _ => true
  | .dcmpo _ _ _ => true
  | .dcmpoq _ _ _ => true
  | .dtstdc _ _ _ => true
  | .dtstdcq _ _ _ => true
  | .dtstdg _ _ _ => true
  | .dtstdgq _ _ _ => true
  | .dtstex _ _ _ => true
  | .dtstexq _ _ _ => true
  | .dtstsf _ _ _ => true
  | .dtstsfq _ _ _ => true
  | .dquai _ _ _ _ _ => false
  | .dquaiq _ _ _ _ _ => false
  | .dqua _ _ _ _ _ => false
  | .dquaq _ _ _ _ _ => false
  | .drrnd _ _ _ _ _ => false
  | .drrndq _ _ _ _ _ => false
  | .drintx _ _ _ _ _ => false
  | .drintxq _ _ _ _ _ => false
  | .drintn _ _ _ _ _ => false
  | .drintnq _ _ _ _ _ => false
  | .dctdp _ _ _ => false
  | .dctqpq _ _ _ => false
  | .drsp _ _ _ => false
  | .drdpq _ _ _ => false
  | .dcffixq _ _ _ => false
  | .dctfix _ _ _ => false
  | .dctfixq _ _ _ => false
  | .ddedpd _ _ _ _ _ => false
  | .ddedpdq _ _ _ _ _ => false
  | .denbcd _ _ _ _ => false
  | .denbcdq _ _ _ _ => false
  | .dxex _ _ _ => false
  | .dxexq _ _ _ => false
  | .diex _ _ _ _ => false
  | .diexq _ _ _ _ => false
  | .dscli _ _ _ _ => false
  | .dscliq _ _ _ _ => false
  | .dscri _ _ _ _ => false
  | .dscriq _ _ _ _ => false

/-- The instructions that cause no exception (41_dfp_execution_model.md R207, 60_exceptions.md R371): the tests, `dctdp`,
`dcffixq` and the format instructions but `denbcd[q]`. -/
def causesNone : Instr → Bool
  | .dadd _ _ _ _ => false
  | .daddq _ _ _ _ => false
  | .dsub _ _ _ _ => false
  | .dsubq _ _ _ _ => false
  | .dmul _ _ _ _ => false
  | .dmulq _ _ _ _ => false
  | .ddiv _ _ _ _ => false
  | .ddivq _ _ _ _ => false
  | .dcmpu _ _ _ => false
  | .dcmpuq _ _ _ => false
  | .dcmpo _ _ _ => false
  | .dcmpoq _ _ _ => false
  | .dtstdc _ _ _ => true
  | .dtstdcq _ _ _ => true
  | .dtstdg _ _ _ => true
  | .dtstdgq _ _ _ => true
  | .dtstex _ _ _ => true
  | .dtstexq _ _ _ => true
  | .dtstsf _ _ _ => true
  | .dtstsfq _ _ _ => true
  | .dquai _ _ _ _ _ => false
  | .dquaiq _ _ _ _ _ => false
  | .dqua _ _ _ _ _ => false
  | .dquaq _ _ _ _ _ => false
  | .drrnd _ _ _ _ _ => false
  | .drrndq _ _ _ _ _ => false
  | .drintx _ _ _ _ _ => false
  | .drintxq _ _ _ _ _ => false
  | .drintn _ _ _ _ _ => false
  | .drintnq _ _ _ _ _ => false
  | .dctdp _ _ _ => true
  | .dctqpq _ _ _ => false
  | .drsp _ _ _ => false
  | .drdpq _ _ _ => false
  | .dcffixq _ _ _ => true
  | .dctfix _ _ _ => false
  | .dctfixq _ _ _ => false
  | .ddedpd _ _ _ _ _ => true
  | .ddedpdq _ _ _ _ _ => true
  | .denbcd _ _ _ _ => false
  | .denbcdq _ _ _ _ => false
  | .dxex _ _ _ => true
  | .dxexq _ _ _ => true
  | .diex _ _ _ _ => true
  | .diexq _ _ _ _ => true
  | .dscli _ _ _ _ => true
  | .dscliq _ _ _ _ => true
  | .dscri _ _ _ _ => true
  | .dscriq _ _ _ _ => true

/-- The reserved bits of an instruction's word, bit 0 leftmost (30_encoding.md R104, the layouts of R83 to R85). -/
def reservedBitsOf : Instr → List Nat
  | .dadd _ _ _ _ => []
  | .daddq _ _ _ _ => []
  | .dsub _ _ _ _ => []
  | .dsubq _ _ _ _ => []
  | .dmul _ _ _ _ => []
  | .dmulq _ _ _ _ => []
  | .ddiv _ _ _ _ => []
  | .ddivq _ _ _ _ => []
  | .dcmpu _ _ _ => [9, 10, 31]
  | .dcmpuq _ _ _ => [9, 10, 31]
  | .dcmpo _ _ _ => [9, 10, 31]
  | .dcmpoq _ _ _ => [9, 10, 31]
  | .dtstdc _ _ _ => [9, 10, 31]
  | .dtstdcq _ _ _ => [9, 10, 31]
  | .dtstdg _ _ _ => [9, 10, 31]
  | .dtstdgq _ _ _ => [9, 10, 31]
  | .dtstex _ _ _ => [9, 10, 31]
  | .dtstexq _ _ _ => [9, 10, 31]
  | .dtstsf _ _ _ => [9, 10, 31]
  | .dtstsfq _ _ _ => [9, 10, 31]
  | .dquai _ _ _ _ _ => []
  | .dquaiq _ _ _ _ _ => []
  | .dqua _ _ _ _ _ => []
  | .dquaq _ _ _ _ _ => []
  | .drrnd _ _ _ _ _ => []
  | .drrndq _ _ _ _ _ => []
  | .drintx _ _ _ _ _ => [11, 12, 13, 14]
  | .drintxq _ _ _ _ _ => [11, 12, 13, 14]
  | .drintn _ _ _ _ _ => [11, 12, 13, 14]
  | .drintnq _ _ _ _ _ => [11, 12, 13, 14]
  | .dctdp _ _ _ => [11, 12, 13, 14, 15]
  | .dctqpq _ _ _ => [11, 12, 13, 14, 15]
  | .drsp _ _ _ => [11, 12, 13, 14, 15]
  | .drdpq _ _ _ => [11, 12, 13, 14, 15]
  | .dcffixq _ _ _ => [11, 12, 13, 14, 15]
  | .dctfix _ _ _ => [11, 12, 13, 14, 15]
  | .dctfixq _ _ _ => [11, 12, 13, 14, 15]
  | .ddedpd _ _ _ _ _ => [13, 14, 15]
  | .ddedpdq _ _ _ _ _ => [13, 14, 15]
  | .denbcd _ _ _ _ => [12, 13, 14, 15]
  | .denbcdq _ _ _ _ => [12, 13, 14, 15]
  | .dxex _ _ _ => [11, 12, 13, 14, 15]
  | .dxexq _ _ _ => [11, 12, 13, 14, 15]
  | .diex _ _ _ _ => []
  | .diexq _ _ _ _ => []
  | .dscli _ _ _ _ => []
  | .dscliq _ _ _ _ => []
  | .dscri _ _ _ _ => []
  | .dscriq _ _ _ _ => []

/-- The five enable bits are 0 (10_state.md R43). -/
def noEnables (fpscr : BitVec 64) : Bool := [56, 57, 58, 59, 60].all (fun i => !bitAt fpscr i)

/-- The exception status bits with the enable bit of each (10_state.md R31, R43). -/
def statusEnables : List (Nat × Nat) :=
  [(35, 57), (36, 58), (37, 59), (38, 60), (39, 56), (40, 56), (41, 56), (42, 56), (43, 56), (44, 56), (55, 56)]

/-- Whether the instruction itself causes the exception of status bit b in s: run in Ignore Exceptions Mode from s with every
status bit 0, it leaves that bit 1 (41_dfp_execution_model.md R205, 60_exceptions.md R376). -/
def causes (i : Instr) (s : State) (b : Nat) : Bool :=
  match exec i { s with fpscr := s.fpscr &&& ~~~maskOf statusBits, feMode := 0b00#2 } with
  | .next t => bitAt t.fpscr b
  | .fault _ | .refused _ => false

/-- Whether an exception the instruction itself causes in s is enabled (60_exceptions.md R376, R377). -/
def raisesEnabled (i : Instr) (s : State) : Bool :=
  statusEnables.any (fun p => causes i s p.1 && bitAt s.fpscr p.2)

/-- The instruction at s.pc has completed in t and no handler is invoked: pc has advanced, and everything that is neither a
register nor a flag is as before but for the count of free values (10_state.md R50). -/
structure Completed (s t : State) : Prop where
  pc : t.pc = s.pc + 4
  trapAt : t.trapAt = s.trapAt
  pending : t.pending = s.pending
  feMode : t.feMode = s.feMode
  mem : t.mem = s.mem
  insnBigEndian : t.insnBigEndian = s.insnBigEndian

/-- Every floating-point register but those of a list is as before. -/
def FprsKept (rs : List FReg) (s t : State) : Prop := ∀ r : FReg, r ∉ rs → readFpr t r = readFpr s r

/-- Every condition-register field but those of a list is as before. -/
def CrKept (fs : List CRField) (s t : State) : Prop := ∀ f : CRField, f ∉ fs → t.cr[f] = s.cr[f]

/-- Every FPSCR bit but those of a list is as before. -/
def FpscrKept (bits : List Nat) (s t : State) : Prop :=
  ∀ i : Nat, i < 64 → i ∉ bits → bitAt t.fpscr i = bitAt s.fpscr i

/-- FPRF, bits 47:51 (10_state.md R40). -/
def fprfField (v : BitVec 64) : BitVec 5 := slice v 47 51

/-- FPCC, bits 48:51 (10_state.md R41). -/
def fpccField (v : BitVec 64) : BitVec 4 := slice v 48 51

/-- FR = 0 and FI = 0 (10_state.md R39). -/
def roundingFlagsClear (v : BitVec 64) : Bool := !bitAt v 45 && !bitAt v 46

/-- No exception status bit has changed (10_state.md R33). -/
def StatusKept (s t : State) : Prop := ∀ i ∈ statusBits, bitAt t.fpscr i = bitAt s.fpscr i

/-- Status bit i went from 0 to 1. -/
def newlySet (s t : State) (i : Nat) : Bool := !bitAt s.fpscr i && bitAt t.fpscr i

/-- The number (-1)^s c 10^e (00_scope.md R16, 40_dfp_formats.md R123). -/
def finValue (s : Bool) (c : Nat) (e : Int) : ℚ := (if s then -1 else 1) * (c : ℚ) * (10 : ℚ) ^ e

/-- The value of a magnitude (41_dfp_execution_model.md R160). -/
def Mag.value (v : Mag) : ℚ := (v.num : ℚ) / (v.den : ℚ) * (10 : ℚ) ^ v.exp

/-- n is the magnitude x of a number of sign sg rounded to an integer in a mode (41_dfp_execution_model.md R163, R166): x
itself, or else one of the two integers beside x, the one the mode picks. -/
def RoundsTo (mode : RMode) (sg : Bool) (x : ℚ) (n : Nat) : Prop :=
  (n : ℚ) = x ∨
  ((n : ℚ) ≠ x ∧ (n : ℚ) < x + 1 ∧ x < n + 1 ∧
    match mode with
    | .rtz => (n : ℚ) < x
    | .rafz => x < n
    | .rtpi => x < n ↔ sg = false
    | .rtmi => x < n ↔ sg = true
    | .rne => 2 * (n : ℚ) ≤ 2 * x + 1 ∧ 2 * x ≤ 2 * n + 1 ∧ (2 * (n : ℚ) = 2 * x + 1 ∨ 2 * x = 2 * n + 1 → n % 2 = 0)
    | .rnaz => 2 * (n : ℚ) ≤ 2 * x + 1 ∧ 2 * x < 2 * n + 1
    | .rntz => 2 * (n : ℚ) < 2 * x + 1 ∧ 2 * x ≤ 2 * n + 1
    | .rfsp => x < n ↔ ⌊x⌋₊ % 10 = 0 ∨ ⌊x⌋₊ % 10 = 5)

/-- n × 10^e is q > 0 rounded to P significant digits with unbounded exponent range: q is rounded to an integer m in units
of the power of ten at which it has P digits, and an m of P + 1 digits is renormalised (41_dfp_execution_model.md R175). -/
def RoundsToDigits (P : Nat) (mode : RMode) (sg : Bool) (q : ℚ) (n : Nat) (e : Int) : Prop :=
  ∃ (e0 : Int) (m : Nat), (10 : ℚ) ^ (P - 1) * (10 : ℚ) ^ e0 ≤ q ∧ q < (10 : ℚ) ^ P * (10 : ℚ) ^ e0 ∧
    RoundsTo mode sg (q / (10 : ℚ) ^ e0) m ∧
    if m = 10 ^ P then n = 10 ^ (P - 1) ∧ e = e0 + 1 else n = m ∧ e = e0

/-- d is the number of sign sg that q, rounded to n × 10^e, is delivered as. Inexact, its form is n × 10^e itself; exact, it
is the form of at most P digits whose exponent, from lo to hi, is closest to the ideal one (41_dfp_execution_model.md
R176). -/
def HoldsRounded (P : Nat) (lo hi ideal : Int) (d : Dfp) (sg : Bool) (q : ℚ) (n : Nat) (e : Int) : Prop :=
  ∃ (c : Nat) (e' : Int), d = .fin sg c e' ∧ c < 10 ^ P ∧ finValue false c e' = finValue false n e ∧
    (finValue false n e ≠ q → c = n ∧ e' = e) ∧
    (finValue false n e = q →
      ∀ (c2 : Nat) (e2 : Int), c2 < 10 ^ P → lo ≤ e2 → e2 ≤ hi → finValue false c2 e2 = q → |e' - ideal| ≤ |e2 - ideal|)

/-- FRT[p] holds d in format F, FPRF is its class, FR = FI = 0 and no exception has occurred: an exact result
(42_arithmetic.md R221 `Exact`, 41_dfp_execution_model.md R183 row Normal, exact). -/
structure ExactResult (F : Format) (frt : FReg) (d : Dfp) (s t : State) : Prop where
  done : Completed s t
  result : sourceDfp F t frt = d
  fprf : fprfField t.fpscr = fprfOf F d
  flags : roundingFlagsClear t.fpscr = true
  status : StatusKept s t

/-- An invalid operation of status bit x whose disabled result is the quiet NaN d (41_dfp_execution_model.md R192 to R194):
x and VX are 1, FR = FI = 0; disabled, the instruction completes with d in FRT[p] of format F; enabled, the
registers and FPRF are unchanged. -/
structure InvalidResult (F : Format) (frt : FReg) (d : Dfp) (x : Nat) (s t : State) : Prop where
  status : bitAt t.fpscr x = true ∧ bitAt t.fpscr 34 = true
  flags : roundingFlagsClear t.fpscr = true
  disabled : bitAt s.fpscr 56 = false → Completed s t ∧ sourceDfp F t frt = d ∧ fprfField t.fpscr = 0b10001#5
  enabled : bitAt s.fpscr 56 = true →
    t.fpr = s.fpr ∧ fprfField t.fpscr = fprfField s.fpscr ∧ bitAt t.fpscr 33 = true

/-- A quantum-adjusted result d with its FI and FR (45_quantum_adjustment.md R270): d is in FRT[p] of format F, FPRF is its
class, XX is ORed with FI and no other exception has occurred. An inexact result with XE = 1 is written too, with FEX = 1;
without that, and in Ignore Exceptions Mode, the instruction completes. -/
structure AdjustedResult (F : Format) (frt : FReg) (d : Dfp) (fi fr : Bool) (s t : State) : Prop where
  result : sourceDfp F t frt = d
  fprf : fprfField t.fpscr = fprfOf F d
  fiBit : bitAt t.fpscr 46 = fi
  frBit : bitAt t.fpscr 45 = fr
  xx : bitAt t.fpscr 38 = (bitAt s.fpscr 38 || fi)
  status : ∀ b ∈ statusBits, b ≠ 38 → bitAt t.fpscr b = bitAt s.fpscr b
  done : fi = false ∨ bitAt s.fpscr 60 = false ∨ s.feMode = 0b00#2 → Completed s t
  raised : fi = true → bitAt s.fpscr 60 = true → bitAt t.fpscr 33 = true

/-- FRT[p] of format F holds what q, rounded to n × 10^e, is delivered as; FI says that the rounding was inexact, FR that it
incremented, and XX is ORed with FI (41_dfp_execution_model.md R175, R176; 10_state.md R37, R39). -/
structure RoundedResult (F : Format) (P : Nat) (ideal : Int) (frt : FReg) (sg : Bool) (q : ℚ) (n : Nat) (e : Int)
    (s t : State) : Prop where
  value : HoldsRounded P F.xmin F.xmax ideal (sourceDfp F t frt) sg q n e
  fi : bitAt t.fpscr 46 = true ↔ finValue false n e ≠ q
  fr : bitAt t.fpscr 45 = true ↔ q < finValue false n e
  xx : bitAt t.fpscr 38 = (bitAt s.fpscr 38 || bitAt t.fpscr 46)

/-- The wrapped result of an enabled overflow or underflow: q × 10^shift rounded to P digits and delivered in format F, the
ideal exponent shifted with it, FPRF that of a normal number (41_dfp_execution_model.md R196, R206). -/
structure WrappedResult (F : Format) (P : Nat) (shift ideal : Int) (frt : FReg) (sg : Bool) (q : ℚ) (s t : State) :
    Prop where
  value : ∃ n e, RoundsToDigits P (drnMode s.fpscr) sg (q * (10 : ℚ) ^ shift) n e ∧
    RoundedResult F P (ideal + shift) frt sg (q * (10 : ℚ) ^ shift) n e s t
  fprf : fprfField t.fpscr = if sg = true then 0b01000#5 else 0b00100#5

/-- The result of a disabled overflow in format F: OX, XX and FI are set; an infinity with FR = 1, or Nmax with FR = 0, by
the rounding mode and the sign (41_dfp_execution_model.md R197). -/
structure OverflowResult (F : Format) (frt : FReg) (sg : Bool) (s t : State) : Prop where
  status : bitAt t.fpscr 35 = true ∧ bitAt t.fpscr 38 = true ∧ bitAt t.fpscr 46 = true
  value :
    if drnMode s.fpscr = .rne ∨ drnMode s.fpscr = .rnaz ∨ drnMode s.fpscr = .rntz ∨ drnMode s.fpscr = .rafz ∨
        (drnMode s.fpscr = .rtpi ∧ sg = false) ∨ (drnMode s.fpscr = .rtmi ∧ sg = true) then
      sourceDfp F t frt = .inf sg 0 ∧ bitAt t.fpscr 45 = true
    else sourceDfp F t frt = .fin sg (10 ^ F.prec - 1) F.xmax ∧ bitAt t.fpscr 45 = false
  fprf : fprfField t.fpscr = fprfOf F (sourceDfp F t frt)

/-- The finite nonzero value of sign sg and magnitude q is delivered in format F with an ideal exponent, rounded by DRN
(41_dfp_execution_model.md R180, R196 to R199). `alpha` is the wrap adjustment and Fw the format of a wrapped result. -/
structure Delivery (F Fw : Format) (alpha ideal : Int) (frt : FReg) (sg : Bool) (q : ℚ) (s t : State) : Prop where
  /-- At least Nmin: rounded to the precision; too large an exponent is an overflow. -/
  normal : (10 : ℚ) ^ (F.xmin + F.prec - 1) ≤ q → ∃ n e, RoundsToDigits F.prec (drnMode s.fpscr) sg q n e ∧
    (e ≤ F.xmax →
      RoundedResult F F.prec ideal frt sg q n e s t ∧ bitAt t.fpscr 35 = bitAt s.fpscr 35 ∧
        fprfField t.fpscr = fprfOf F (sourceDfp F t frt)) ∧
    (F.xmax < e → bitAt s.fpscr 57 = false → OverflowResult F frt sg s t) ∧
    (F.xmax < e → bitAt s.fpscr 57 = true →
      bitAt t.fpscr 35 = true ∧ WrappedResult Fw F.prec (-alpha) ideal frt sg q s t) ∧
    bitAt t.fpscr 36 = bitAt s.fpscr 36
  /-- Below Nmin with underflow disabled: rounded to a multiple of the quantum of Dmin; UX when that is inexact. -/
  tiny : q < (10 : ℚ) ^ (F.xmin + F.prec - 1) → bitAt s.fpscr 58 = false →
    ∃ n, RoundsTo (drnMode s.fpscr) sg (q / (10 : ℚ) ^ F.xmin) n ∧
      RoundedResult F F.prec ideal frt sg q n F.xmin s t ∧
      bitAt t.fpscr 36 = (bitAt s.fpscr 36 || bitAt t.fpscr 46) ∧ bitAt t.fpscr 35 = bitAt s.fpscr 35 ∧
      fprfField t.fpscr = fprfOf F (sourceDfp F t frt)
  /-- Below Nmin with underflow enabled. -/
  tinyEnabled : q < (10 : ℚ) ^ (F.xmin + F.prec - 1) → bitAt s.fpscr 58 = true →
    bitAt t.fpscr 36 = true ∧ bitAt t.fpscr 35 = bitAt s.fpscr 35 ∧
      WrappedResult Fw F.prec alpha ideal frt sg q s t
  /-- With no exception enabled, and in Ignore Exceptions Mode, the instruction completes. -/
  done : noEnables s.fpscr = true ∨ s.feMode = 0b00#2 → Completed s t

/-- The instruction has written d to FRT[p] and left the FPSCR as it was (47_format.md R330). -/
structure PlainResult (s t : State) : Prop where
  done : Completed s t
  fpscr : t.fpscr = s.fpscr

/-- A compare or test has put the code in CR[BF] and in FPCC (43_compare.md R240, 44_test.md R250). -/
structure CodeResult (bf : CRField) (code : BitVec 4) (s t : State) : Prop where
  done : Completed s t
  cr : t.cr[bf] = code
  fpcc : fpccField t.fpscr = code

/-- VX and FEX are the functions of the other bits that define them (10_state.md R34, R35; 70_reset_and_hazards.md R400). -/
def summariesHold (v : BitVec 64) : Bool := (bitAt v 34 == vxOf v) && (bitAt v 33 == fexOf v)

/-- The invariant of every step: storage in canonical form, pc and the address of a Trap multiples of 4, VX and FEX as
defined, nothing recorded of an excepting instruction but while an exception is pending (20_memory.md R67; 10_state.md R34,
R35, R50, R53; 60_exceptions.md R377, R378). -/
structure Inv (s : State) : Prop where
  mem : Memory.wf s.mem = true
  pc : s.pc.toNat % 4 = 0
  summaries : summariesHold s.fpscr = true
  notPending : s.pending = false → s.pendingFprs = [] ∧ s.pendingFpscr = 0
  trapped : ∀ a, s.trapAt = some a → a.toNat % 4 = 0

end Sys2Proof.Machine
end

