-- ==== Sys2Proof/Certificates/Slice0/Obligations.lean ====
section
/-! DEFINITION. The statements about the machine that are to be proved. -/

open Sys2Proof Sys2Proof.Machine

/-! ### Encoding and decoding -/

/-- 30_encoding.md R95, R96: decoding the word of a well-formed instruction gives it back, with every operand at every value. -/
def Obligations.DecodeOfEncode : Prop :=
  ∀ i : Instr, i.wellFormed = true → decodeWord (encode i) = .ok i

/-- 30_encoding.md R96, R98: a word that decodes is the word of the instruction it decodes to, and that one is well formed;
so no bit of an accepted word is ignored. It rests on the refusal of reserved bits and of odd pair fields, which is a choice:
the spec's decisions D3 and D4 in R103 and R104, log entry 8 (DESIGN CHOICE). -/
def Obligations.EncodeOfDecode : Prop :=
  ∀ (w : InsnWord) (i : Instr), decodeWord w = .ok i → encode i = w ∧ i.wellFormed = true

/-- 30_encoding.md R103, R104: a word whose pair field is odd is refused as an invalid form, and so is its meaning; a word
with any reserved bit of its layout set is refused. D0 names no effect for such words: the refusal is a choice, the spec's
decisions D3 and D4, log entry 8 (DESIGN CHOICE). -/
def Obligations.InvalidWordsRefused : Prop :=
  (∀ (i : Instr) (s : State), i.wellFormed = false →
    decodeWord (encode i) = .error .invalidForm ∧ exec i s = .refused .invalidForm) ∧
  (∀ i : Instr, ∀ b ∈ reservedBitsOf i,
    decodeWord (encode i ||| BitVec.ofNat 32 (2 ^ (31 - b))) = .error .reservedBits)

/-- 30_encoding.md R95, R103 to R105: words written out from the encoding tables. The three refusals are a choice, the spec's
decisions D3 and D4 (log entry 8, DESIGN CHOICE); the word of dscli is the spec's general knowledge (log entry 13,
PRESUMED). -/
def Obligations.SampleWords : Prop :=
  decodeWord 0xEC611004#32 = .ok (.dadd 3 1 2 false) ∧ decodeWord 0xFCC22004#32 = .ok (.daddq 6 2 4 false) ∧
  decodeWord 0xED011504#32 = .ok (.dcmpu 2 1 2) ∧ decodeWord 0xEC818184#32 = .ok (.dtstdc 1 1 0b100000#6) ∧
  decodeWord 0xEC7E1486#32 = .ok (.dquai 3 0b11110#5 2 2 false) ∧
  decodeWord 0xEC6116C6#32 = .ok (.drintx 3 true 2 3 false) ∧ decodeWord 0xFC000645#32 = .ok (.dcffixq 0 0 true) ∧
  decodeWord 0xEC701284#32 = .ok (.ddedpd 3 true false 2 false) ∧ decodeWord 0xEC61FC84#32 = .ok (.dscli 3 1 63 false) ∧
  decodeWord 0xFC622004#32 = .error .invalidForm ∧ decodeWord 0xED011505#32 = .error .reservedBits ∧
  decodeWord 0x7C000000#32 = .error .unallocated

/-! ### The step -/

/-- 10_state.md R50, 20_memory.md R66: when no exception is pending and the four bytes at pc, in the machine's byte order,
decode to i, the step is exec of i: this machine adds nothing around it (exec itself advances pc). -/
def Obligations.StepRunsDecoded : Prop :=
  ∀ (s : State) (b0 b1 b2 b3 : Byte) (i : Instr),
    s.trapAt = none → s.pending = false → s.pc.toNat % 4 = 0 →
    readByte s.mem s.pc.toNat = some b0 → readByte s.mem (s.pc + 1).toNat = some b1 →
    readByte s.mem (s.pc + 2).toNat = some b2 → readByte s.mem (s.pc + 3).toNat = some b3 →
    decodeWord (if s.insnBigEndian = true then b0 ++ b1 ++ b2 ++ b3 else b3 ++ b2 ++ b1 ++ b0) = .ok i →
    step s = exec i s

/-- 60_exceptions.md R377: after the outcome Trap nothing runs, until the host resumes at an address with nothing pending
(70_reset_and_hazards.md R405). That the outcome is held in `trapAt` and that a step from it is the fault `trapped` is the
model's choice, log entry 5 (DESIGN CHOICE). -/
def Obligations.TrapThenResume : Prop :=
  ∀ (s : State) (a pc' : Addr), s.trapAt = some a →
    step s = .fault (.trapped a) ∧ (resume pc' s).trapAt = none ∧ (resume pc' s).pc = pc' ∧
      (resume pc' s).pending = false ∧ (resume pc' s).fpr = s.fpr ∧ (resume pc' s).fpscr = s.fpscr ∧
      (resume pc' s).cr = s.cr ∧ (resume pc' s).feMode = s.feMode ∧ (resume pc' s).mem = s.mem

/-- 60_exceptions.md R378: with an exception pending, the step delivers it at the instruction at pc, which has not begun, or
runs that instruction, and the latter only where Imprecise Recoverable Mode allows it. What counts as reading what the
excepting instruction wrote is the model's reading, log entry 6 (DEDUCED); that a delivery is a step of its own is log entry
4 (DESIGN CHOICE). -/
def Obligations.PendingStep : Prop :=
  ∀ (s : State) (i : Instr), s.trapAt = none → s.pending = true → s.pc.toNat % 4 = 0 → fetch s = .insn i →
    (step s = .next (deliverPending s) ∧ (deliverPending s).trapAt = some s.pc ∧ (deliverPending s).pc = s.pc ∧
      (deliverPending s).pending = false ∧ (deliverPending s).fpr = s.fpr ∧ (deliverPending s).fpscr = s.fpscr ∧
      (deliverPending s).cr = s.cr ∧ (deliverPending s).mem = s.mem) ∨
    (step s = exec i s ∧
      (s.feMode = 0b10#2 → (∀ r ∈ fprReads i, r ∉ s.pendingFprs) ∧
        ∀ b ∈ fpscrReads i, bitAt s.pendingFpscr b = false))

/-! ### The invariant -/

/-- Every step keeps the invariant: canonical storage, pc and the address of a Trap multiples of 4, VX and FEX as
10_state.md R34 and R35 define them, nothing recorded while nothing is pending. A Trap that a step takes leaves nothing
pending (60_exceptions.md R378; at an instruction that excepts in Precise Mode, log entry 19, DESIGN CHOICE). -/
def Obligations.StepKeepsInv : Prop :=
  ∀ s t : State, Inv s → step s = .next t → Inv t ∧ (∀ a, t.trapAt = some a → t.pending = false)

/-- The reset state has the invariant. Its values are the model's choice (log entry 1). -/
def Obligations.ResetHasInv : Prop := Inv State.reset

/-- The host's actions of 70_reset_and_hazards.md R405 keep the invariant in every state, a trapped one among them
(60_exceptions.md R382), `Resume` at a multiple of 4; a Trap that a host action takes leaves nothing pending. That a
`SetFPSCR` which raises continues at the same pc is log entry 11 (DEDUCED); what it does in the trapped state is log entry
16 (DESIGN CHOICE). -/
def Obligations.HostActionsKeepInv : Prop :=
  ∀ s : State, Inv s →
    (∀ mask v, Inv (hostSetFpscr mask v s)) ∧ (∀ r v, Inv (hostSetFpr r v s)) ∧ (∀ f v, Inv (hostSetCr f v s)) ∧
    (∀ m, Inv (hostSetFeMode m s)) ∧ (∀ t, hostGetFpscr s = .inl t → Inv t) ∧
    (∀ b : Addr, b.toNat % 4 = 0 → Inv (resume b s)) ∧
    (s.trapAt = none →
      (∀ mask v a, (hostSetFpscr mask v s).trapAt = some a → (hostSetFpscr mask v s).pending = false) ∧
      (∀ t, hostGetFpscr s = .inl t → t.trapAt = some s.pc ∧ t.pending = false))

/-! ### Every instruction -/

/-- Frame of every instruction: registers, CR fields and FPSCR bits outside its own stay, and so does every byte of storage,
FEMode and the byte order (41_dfp_execution_model.md R207, 20_memory.md R60, 10_state.md R49). -/
def Obligations.InstructionFrame : Prop :=
  ∀ (i : Instr) (s t : State), exec i s = .next t →
    FprsKept (fprTargets i) s t ∧ CrKept (crTargets i) s t ∧ FpscrKept (fpscrTargets i) s t ∧
      (∀ a, readByte t.mem a = readByte s.mem a) ∧ t.feMode = s.feMode ∧ t.insnBigEndian = s.insnBigEndian

/-- With no exception enabled, in every exception mode, and in Ignore Exceptions Mode, whatever is enabled, every
well-formed instruction completes (60_exceptions.md R375: the handler "is never invoked because of a disabled DFP
exception"). -/
def Obligations.EveryInstructionCompletes : Prop :=
  ∀ (i : Instr) (s : State), i.wellFormed = true → (noEnables s.fpscr = true ∨ s.feMode = 0b00#2) →
    ∃ t, exec i s = .next t ∧ Completed s t

/-- In Precise Mode the handler is invoked at the instruction exactly when an exception that the instruction itself causes
is enabled, with FEX = 1; otherwise the instruction completes, whatever FEX was before (60_exceptions.md R376, R377). That
the invocation is held in `trapAt` is log entry 5 (DESIGN CHOICE); that it leaves nothing pending, an earlier exception
included, is log entry 19 (DESIGN CHOICE). -/
def Obligations.PreciseModeOutcome : Prop :=
  ∀ (i : Instr) (s t : State), s.feMode = 0b11#2 → exec i s = .next t →
    (raisesEnabled i s = true →
      t.trapAt = some s.pc ∧ t.pc = s.pc ∧ t.pending = false ∧ t.mem = s.mem ∧ bitAt t.fpscr 33 = true) ∧
    (raisesEnabled i s = false → Completed s t)

/-- In the imprecise modes an instruction that itself causes no enabled exception completes; one that does either has the
handler invoked at it, or completes with the exception pending and what it wrote recorded (60_exceptions.md R376 to R378;
which of the two is log entry 4, DESIGN CHOICE, the record is log entry 6, DEDUCED). -/
def Obligations.ImpreciseModeOutcome : Prop :=
  ∀ (i : Instr) (s t : State), (s.feMode = 0b01#2 ∨ s.feMode = 0b10#2) → exec i s = .next t →
    (raisesEnabled i s = false → Completed s t) ∧
    (raisesEnabled i s = true →
      (t.trapAt = some s.pc ∧ t.pc = s.pc ∧ t.pending = false ∧ bitAt t.fpscr 33 = true) ∨
      (t.trapAt = s.trapAt ∧ t.pc = s.pc + 4 ∧ t.pending = true ∧ bitAt t.fpscr 33 = true ∧
        (∀ r, readFpr t r ≠ readFpr s r → r ∈ t.pendingFprs) ∧
        (∀ b, b < 64 → bitAt t.fpscr b ≠ bitAt s.fpscr b → bitAt t.pendingFpscr b = true)))

/-- 60_exceptions.md R375: what is stored "is not affected by the value of the FE0 and FE1 bits". -/
def Obligations.ResultsIgnoreFeMode : Prop :=
  ∀ (i : Instr) (s t : State) (m : BitVec 2), exec i s = .next t →
    ∃ t', exec i { s with feMode := m } = .next t' ∧ t'.fpr = t.fpr ∧ t'.fpscr = t.fpscr ∧ t'.cr = t.cr

/-- The tests, `dctdp`, `dcffixq` and the format instructions but `denbcd[q]` complete in every mode, whatever is enabled and
whatever the status bits are (60_exceptions.md R371, R376). -/
def Obligations.SilentInstructionsComplete : Prop :=
  ∀ (i : Instr) (s : State), i.wellFormed = true → causesNone i = true →
    ∃ t, exec i s = .next t ∧ Completed s t ∧ StatusKept s t ∧ bitAt t.fpscr 32 = bitAt s.fpscr 32

/-- 10_state.md R36: no instruction sets a sticky status bit to 0. -/
def Obligations.StickyBitsStay : Prop :=
  ∀ (i : Instr) (s t : State), exec i s = .next t →
    ∀ b ∈ [35, 36, 37, 39, 40, 41, 42, 43, 44, 55], bitAt s.fpscr b = true → bitAt t.fpscr b = true

/-- 10_state.md R33: FX is 1 afterwards exactly when it was 1 or a status bit went from 0 to 1. -/
def Obligations.FxFollowsStatus : Prop :=
  ∀ (i : Instr) (s t : State), exec i s = .next t →
    bitAt t.fpscr 32 = (bitAt s.fpscr 32 || statusBits.any (newlySet s t))

/-- 10_state.md R37: where FI is affected, XX is ORed with the new FI; where it is not, XX is unchanged. -/
def Obligations.XxFollowsFi : Prop :=
  ∀ (i : Instr) (s t : State), exec i s = .next t →
    (46 ∈ fpscrTargets i → bitAt t.fpscr 38 = (bitAt s.fpscr 38 || bitAt t.fpscr 46)) ∧
    (46 ∉ fpscrTargets i → bitAt t.fpscr 38 = bitAt s.fpscr 38 ∧ bitAt t.fpscr 46 = bitAt s.fpscr 46)

/-- 10_state.md R38: which exception bits one instruction can set together. -/
def Obligations.JointExceptionBits : Prop :=
  ∀ (i : Instr) (s t : State), exec i s = .next t →
    ∀ a b : Nat, a ∈ statusBits → b ∈ statusBits → a < b → newlySet s t a = true → newlySet s t b = true →
      (a = 35 ∧ b = 38) ∨ (a = 36 ∧ b = 38) ∨
      (a = 39 ∧ b = 44 ∧ ((∃ bf fra frb, i = .dcmpo bf fra frb) ∨ ∃ bf fra frb, i = .dcmpoq bf fra frb)) ∨
      (a = 39 ∧ b = 55 ∧ ((∃ frt frb rc, i = .dctfix frt frb rc) ∨ ∃ frt frb rc, i = .dctfixq frt frb rc))

/-- 41_dfp_execution_model.md R208: with Rc = 1, CR field 1 receives FPSCR[32:35] as the instruction leaves them; with Rc = 0
and no field BF the CR stays. For the instructions that leave the FPSCR alone the copy is of the current bits: the spec's
decision D17, log entry 12 (DEDUCED). -/
def Obligations.RecordFormCopies : Prop :=
  ∀ (i : Instr) (s t : State), exec i s = .next t → isCompareOrTest i = false →
    (recordBit i = true → t.cr[(1 : CRField)] = slice t.fpscr 32 35) ∧ (recordBit i = false → t.cr = s.cr)

/-- 41_dfp_execution_model.md R192, R193: when an instruction with FRT itself causes an Invalid Operation that VE enables, be
its status bit 1 already or not, no register is written, FR = FI = 0, FPRF is unchanged and FEX is 1. -/
def Obligations.EnabledInvalidSuppresses : Prop :=
  ∀ (i : Instr) (s t : State), exec i s = .next t → isCompareOrTest i = false → bitAt s.fpscr 56 = true →
    invalidBits.any (causes i s) = true →
    t.fpr = s.fpr ∧ roundingFlagsClear t.fpscr = true ∧ fprfField t.fpscr = fprfField s.fpscr ∧
      bitAt t.fpscr 33 = true

/-! ### Formats -/

/-- 40_dfp_formats.md R135, R137: every bit pattern decodes to a value of its format, and decoding an encoded value gives it
back, in every format. It rests on the DPD tables, the spec's own general knowledge (log entry 13). -/
def Obligations.FormatRoundTrip : Prop :=
  ∀ F : Format,
    (∀ w, w < 2 ^ F.width → (decodeDfp F w).fits F = true) ∧
    (∀ d : Dfp, d.fits F = true → decodeDfp F (encodeDfp F d) = d ∧ encodeDfp F d < 2 ^ F.width)

/-- 40_dfp_formats.md R132 to R134: a DPD block decodes to three digits, encoding gives the preferred block, and exactly the
24 blocks of R134's list are not preferred. The tables are the spec's own general knowledge (log entry 13). -/
def Obligations.DpdBlocks : Prop :=
  (∀ n, n < 1000 → dpdEncode n < 1024 ∧ dpdDecode (dpdEncode n) = n) ∧
  (∀ c, c < 1024 → dpdDecode c < 1000 ∧
    (dpdEncode (dpdDecode c) ≠ c ↔
      c ∈ [0x16E, 0x26E, 0x36E, 0x16F, 0x26F, 0x36F, 0x17E, 0x27E, 0x37E, 0x17F, 0x27F, 0x37F, 0x1EE, 0x2EE, 0x3EE,
        0x1EF, 0x2EF, 0x3EF, 0x1FE, 0x2FE, 0x3FE, 0x1FF, 0x2FF, 0x3FF]))

/-- The tables of the status register: the rounding mode of DRN (10_state.md R32), the mode of R and RMC (30_encoding.md
R88), and the FPRF code of every value (40_dfp_formats.md R141), subnormal below Nmin. -/
def Obligations.StatusRegisterTables : Prop :=
  (∀ v : BitVec 64,
    (slice v 29 31 = 0b000#3 → drnMode v = .rne) ∧ (slice v 29 31 = 0b001#3 → drnMode v = .rtz) ∧
    (slice v 29 31 = 0b010#3 → drnMode v = .rtpi) ∧ (slice v 29 31 = 0b011#3 → drnMode v = .rtmi) ∧
    (slice v 29 31 = 0b100#3 → drnMode v = .rnaz) ∧ (slice v 29 31 = 0b101#3 → drnMode v = .rntz) ∧
    (slice v 29 31 = 0b110#3 → drnMode v = .rafz) ∧ (slice v 29 31 = 0b111#3 → drnMode v = .rfsp) ∧
    rmcMode false 0 v = .rne ∧ rmcMode false 1 v = .rtz ∧ rmcMode false 2 v = .rnaz ∧ rmcMode false 3 v = drnMode v ∧
    rmcMode true 0 v = .rtpi ∧ rmcMode true 1 v = .rtmi ∧ rmcMode true 2 v = .rafz ∧ rmcMode true 3 v = .rntz) ∧
  (∀ (F : Format) (sg : Bool) (c cc : Nat) (e : Int),
    fprfOf F (.snan sg cc) = 0b00001#5 ∧ fprfOf F (.qnan sg cc) = 0b10001#5 ∧
    fprfOf F (.inf sg cc) = (if sg = true then 0b01001#5 else 0b00101#5) ∧
    fprfOf F (.fin sg 0 e) = (if sg = true then 0b10010#5 else 0b00010#5) ∧
    (c ≠ 0 → finValue false c e < (10 : ℚ) ^ (F.xmin + F.prec - 1) →
      fprfOf F (.fin sg c e) = if sg = true then 0b11000#5 else 0b10100#5) ∧
    ((10 : ℚ) ^ (F.xmin + F.prec - 1) ≤ finValue false c e →
      fprfOf F (.fin sg c e) = if sg = true then 0b01000#5 else 0b00100#5))

/-! ### Rounding -/

/-- 41_dfp_execution_model.md R163, R166: rounding a magnitude num / den to an integer, mode by mode. -/
def Obligations.RoundIntByMode : Prop :=
  ∀ (mode : RMode) (sg : Bool) (num den : Nat), 0 < den →
    ((roundInt mode sg num den).inexact = false ↔ (roundInt mode sg num den).n * den = num) ∧
    ((roundInt mode sg num den).incremented = true ↔ num < (roundInt mode sg num den).n * den) ∧
    ((roundInt mode sg num den).n * den < num + den ∧ num < (roundInt mode sg num den).n * den + den) ∧
    ((roundInt mode sg num den).inexact = true →
      match mode with
      | .rtz => (roundInt mode sg num den).incremented = false
      | .rafz => (roundInt mode sg num den).incremented = true
      | .rtpi => (roundInt mode sg num den).incremented = !sg
      | .rtmi => (roundInt mode sg num den).incremented = sg
      | .rne =>
        2 * ((roundInt mode sg num den).n * den) ≤ 2 * num + den ∧ 2 * num ≤ 2 * ((roundInt mode sg num den).n * den) + den ∧
          (2 * (num % den) = den → (roundInt mode sg num den).n % 2 = 0)
      | .rnaz =>
        2 * ((roundInt mode sg num den).n * den) ≤ 2 * num + den ∧ 2 * num ≤ 2 * ((roundInt mode sg num den).n * den) + den ∧
          (2 * (num % den) = den → (roundInt mode sg num den).incremented = true)
      | .rntz =>
        2 * ((roundInt mode sg num den).n * den) ≤ 2 * num + den ∧ 2 * num ≤ 2 * ((roundInt mode sg num den).n * den) + den ∧
          (2 * (num % den) = den → (roundInt mode sg num den).incremented = false)
      | .rfsp =>
        ((roundInt mode sg num den).incremented = true ↔ num / den % 10 = 0 ∨ num / den % 10 = 5) ∧
          (roundInt mode sg num den).n % 10 ≠ 0 ∧ (roundInt mode sg num den).n % 10 ≠ 5)

/-- 41_dfp_execution_model.md R175: a positive value is rounded to exactly P digits, off by less than one unit of the last
one, and without error exactly when nothing is lost. -/
def Obligations.RoundPToPrecision : Prop :=
  ∀ (P : Nat) (mode : RMode) (sg : Bool) (v : Mag), 0 < P → 0 < v.num → 0 < v.den →
    10 ^ (P - 1) ≤ (roundP P mode sg v).c ∧ (roundP P mode sg v).c < 10 ^ P ∧
    finValue false (roundP P mode sg v).c (roundP P mode sg v).e - v.value < (10 : ℚ) ^ (roundP P mode sg v).e ∧
    v.value - finValue false (roundP P mode sg v).c (roundP P mode sg v).e < (10 : ℚ) ^ (roundP P mode sg v).e ∧
    ((roundP P mode sg v).inexact = false ↔ finValue false (roundP P mode sg v).c (roundP P mode sg v).e = v.value) ∧
    ((roundP P mode sg v).incremented = true ↔ v.value < finValue false (roundP P mode sg v).c (roundP P mode sg v).e)

/-- 41_dfp_execution_model.md R180: what `Deliver` answers, but for a wrapped result, is a value of the target format, and
an exact answer has the value it was asked for. -/
def Obligations.DeliverFitsFormat : Prop :=
  ∀ (F : Format) (hi : Int) (sg : Bool) (v : Mag) (ideal : Int) (mode : RMode) (alpha : Int) (fpscr : BitVec 64),
    0 < v.num → 0 < v.den → (deliver F hi sg v ideal mode alpha fpscr).forceNormal = false →
    (deliver F hi sg v ideal mode alpha fpscr).d.fits F = true ∧
      ((deliver F hi sg v ideal mode alpha fpscr).fi = false →
        ∃ c e, (deliver F hi sg v ideal mode alpha fpscr).d = .fin sg c e ∧ finValue false c e = v.value)

/-- 41_dfp_execution_model.md R198, R199: a value below Nmin with underflow disabled. Inexact, it is rounded to a multiple of
the quantum of Dmin, with UX and XX; exact, it raises nothing. -/
def Obligations.TinyValueDisabled : Prop :=
  ∀ (F : Format) (hi : Int) (sg : Bool) (v : Mag) (ideal : Int) (mode : RMode) (alpha : Int) (fpscr : BitVec 64),
    0 < v.num → 0 < v.den → v.value < (10 : ℚ) ^ (F.xmin + F.prec - 1) → bitAt fpscr 58 = false →
    (((deliver F hi sg v ideal mode alpha fpscr).exc = [.ux, .xx] ∧ (deliver F hi sg v ideal mode alpha fpscr).fi = true ∧
        ∃ n, (deliver F hi sg v ideal mode alpha fpscr).d = .fin sg n F.xmin ∧ finValue false n F.xmin ≠ v.value ∧
          finValue false n F.xmin - v.value < (10 : ℚ) ^ F.xmin ∧ v.value - finValue false n F.xmin < (10 : ℚ) ^ F.xmin ∧
          ((deliver F hi sg v ideal mode alpha fpscr).fr = true ↔ v.value < finValue false n F.xmin)) ∨
      ((deliver F hi sg v ideal mode alpha fpscr).exc = [] ∧ (deliver F hi sg v ideal mode alpha fpscr).fi = false ∧
        (deliver F hi sg v ideal mode alpha fpscr).fr = false ∧
        ∃ c e, (deliver F hi sg v ideal mode alpha fpscr).d = .fin sg c e ∧ finValue false c e = v.value))

/-- 41_dfp_execution_model.md R196, R198: an enabled overflow, a rounded value with an exponent above Xmax, or an enabled
underflow, a value below Nmin, delivers the value times 10 to the -alpha or alpha rounded to the precision of the format, in
the form closest to the ideal exponent shifted alike, with OX or UX, and XX when that is inexact. For every alpha: what alpha
each instruction passes is said by `ArithmeticRounds` and `NarrowFinite`. -/
def Obligations.WrappedResults : Prop :=
  ∀ (F : Format) (hi : Int) (sg : Bool) (v : Mag) (ideal : Int) (mode : RMode) (alpha : Int) (fpscr : BitVec 64)
    (shift : Int) (x : Exc), 0 < v.num → 0 < v.den →
    ((∃ n0 e0, RoundsToDigits F.prec mode sg v.value n0 e0 ∧ F.xmax < e0) ∧ bitAt fpscr 57 = true ∧ shift = -alpha ∧
        x = .ox) ∨
      (v.value < (10 : ℚ) ^ (F.xmin + F.prec - 1) ∧ bitAt fpscr 58 = true ∧ shift = alpha ∧ x = .ux) →
    ∃ n e, RoundsToDigits F.prec mode sg (v.value * (10 : ℚ) ^ shift) n e ∧
      HoldsRounded F.prec F.xmin hi (ideal + shift) (deliver F hi sg v ideal mode alpha fpscr).d sg
        (v.value * (10 : ℚ) ^ shift) n e ∧
      (deliver F hi sg v ideal mode alpha fpscr).forceNormal = true ∧
      ((deliver F hi sg v ideal mode alpha fpscr).fi = true ↔ finValue false n e ≠ v.value * (10 : ℚ) ^ shift) ∧
      ((deliver F hi sg v ideal mode alpha fpscr).fr = true ↔ v.value * (10 : ℚ) ^ shift < finValue false n e) ∧
      (deliver F hi sg v ideal mode alpha fpscr).exc =
        if (deliver F hi sg v ideal mode alpha fpscr).fi = true then [x, .xx] else [x]

/-! ### Arithmetic -/

/-- 42_arithmetic.md R222 to R226: a nonzero sum or difference that has at most p digits at the smaller exponent is delivered
exactly, with that exponent. With UE = 0; `ArithmeticRounds` says what UE = 1 makes of a tiny one. -/
def Obligations.ExactSum : Prop :=
  ∀ (F : Format) (sub : Bool) (op : FReg → FReg → FReg → Bool → Instr) (s : State) (frt fra frb : FReg) (rc : Bool)
    (sa sb : Bool) (ca cb : Nat) (ea eb x : Int),
    (F = .dfp64 ∧ op = .dadd ∧ sub = false) ∨ (F = .dfp128 ∧ op = .daddq ∧ sub = false) ∨
      (F = .dfp64 ∧ op = .dsub ∧ sub = true) ∨ (F = .dfp128 ∧ op = .dsubq ∧ sub = true) →
    (op frt fra frb rc).wellFormed = true → sourceDfp F s fra = .fin sa ca ea → sourceDfp F s frb = .fin sb cb eb →
    (if sa = true then -1 else 1) * ((ca * 10 ^ (ea - min ea eb).toNat : Nat) : Int) +
      (if (sb ^^ sub) = true then -1 else 1) * ((cb * 10 ^ (eb - min ea eb).toNat : Nat) : Int) = x →
    x ≠ 0 → x.natAbs < 10 ^ F.prec → bitAt s.fpscr 58 = false →
    ∃ t, exec (op frt fra frb rc) s = .next t ∧ ExactResult F frt (.fin (decide (x < 0)) x.natAbs (min ea eb)) s t

/-- 42_arithmetic.md R222, R225, 41_dfp_execution_model.md R178: a zero sum or difference is plus but of two equal signs or
in round toward -infinity, with the smaller exponent. -/
def Obligations.ZeroSum : Prop :=
  ∀ (F : Format) (sub : Bool) (op : FReg → FReg → FReg → Bool → Instr) (s : State) (frt fra frb : FReg) (rc : Bool)
    (sa sb : Bool) (ca cb : Nat) (ea eb : Int),
    (F = .dfp64 ∧ op = .dadd ∧ sub = false) ∨ (F = .dfp128 ∧ op = .daddq ∧ sub = false) ∨
      (F = .dfp64 ∧ op = .dsub ∧ sub = true) ∨ (F = .dfp128 ∧ op = .dsubq ∧ sub = true) →
    (op frt fra frb rc).wellFormed = true → sourceDfp F s fra = .fin sa ca ea → sourceDfp F s frb = .fin sb cb eb →
    ca * 10 ^ (ea - min ea eb).toNat = cb * 10 ^ (eb - min ea eb).toNat → (ca = 0 ∨ sa ≠ (sb ^^ sub)) →
    ∃ t, exec (op frt fra frb rc) s = .next t ∧
      ExactResult F frt (.fin (if sa = (sb ^^ sub) then sa else drnMode s.fpscr == .rtmi) 0 (min ea eb)) s t

/-- 42_arithmetic.md R227 to R229: a nonzero product of at most p digits whose ideal exponent is in range is delivered
exactly with that exponent; a zero product with the ideal exponent clamped to the range. -/
def Obligations.ExactProduct : Prop :=
  ∀ (F : Format) (op : FReg → FReg → FReg → Bool → Instr) (s : State) (frt fra frb : FReg) (rc : Bool)
    (sa sb : Bool) (ca cb : Nat) (ea eb : Int),
    (F = .dfp64 ∧ op = .dmul) ∨ (F = .dfp128 ∧ op = .dmulq) →
    (op frt fra frb rc).wellFormed = true → sourceDfp F s fra = .fin sa ca ea → sourceDfp F s frb = .fin sb cb eb →
    (ca * cb ≠ 0 → ca * cb < 10 ^ F.prec → F.xmin ≤ ea + eb → ea + eb ≤ F.xmax → bitAt s.fpscr 58 = false →
      ∃ t, exec (op frt fra frb rc) s = .next t ∧ ExactResult F frt (.fin (sa ^^ sb) (ca * cb) (ea + eb)) s t) ∧
    (ca * cb = 0 →
      ∃ t, exec (op frt fra frb rc) s = .next t ∧
        ExactResult F frt (.fin (sa ^^ sb) 0 (max F.xmin (min (ea + eb) F.xmax))) s t)

/-- 42_arithmetic.md R230 to R232: an integer quotient of at most p digits whose ideal exponent is in range is delivered
exactly with that exponent; the quotient of a zero with the ideal exponent clamped to the range. -/
def Obligations.ExactQuotient : Prop :=
  ∀ (F : Format) (op : FReg → FReg → FReg → Bool → Instr) (s : State) (frt fra frb : FReg) (rc : Bool)
    (sa sb : Bool) (cb q : Nat) (ea eb : Int),
    (F = .dfp64 ∧ op = .ddiv) ∨ (F = .dfp128 ∧ op = .ddivq) →
    (op frt fra frb rc).wellFormed = true → sourceDfp F s fra = .fin sa (q * cb) ea →
    sourceDfp F s frb = .fin sb cb eb → cb ≠ 0 →
    (q ≠ 0 → F.xmin ≤ ea - eb → ea - eb ≤ F.xmax → bitAt s.fpscr 58 = false →
      ∃ t, exec (op frt fra frb rc) s = .next t ∧ ExactResult F frt (.fin (sa ^^ sb) q (ea - eb)) s t) ∧
    (q = 0 →
      ∃ t, exec (op frt fra frb rc) s = .next t ∧
        ExactResult F frt (.fin (sa ^^ sb) 0 (max F.xmin (min (ea - eb) F.xmax))) s t)

/-- 42_arithmetic.md R221 to R232, 41_dfp_execution_model.md R180, R196 to R199: the exact sum, difference, product or
quotient x of finite operands, if it is not 0, is rounded by DRN and delivered with its ideal exponent, for every setting of
the enables: exact or inexact, overflowing or tiny; wrapped by 576 in DFP64 and by 9216 in DFP128. The digit that RFSP tests
is the spec's decision D12, log entry 12 (DEDUCED). -/
def Obligations.ArithmeticRounds : Prop :=
  ∀ (F : Format) (s : State) (frt fra frb : FReg) (rc : Bool) (i : Instr) (sa sb sg : Bool) (ca cb : Nat)
    (ea eb ideal alpha : Int) (x : ℚ),
    (x = finValue sa ca ea + finValue sb cb eb ∧ ideal = min ea eb ∧
        ((F = .dfp64 ∧ i = .dadd frt fra frb rc) ∨ (F = .dfp128 ∧ i = .daddq frt fra frb rc))) ∨
      (x = finValue sa ca ea - finValue sb cb eb ∧ ideal = min ea eb ∧
        ((F = .dfp64 ∧ i = .dsub frt fra frb rc) ∨ (F = .dfp128 ∧ i = .dsubq frt fra frb rc))) ∨
      (x = finValue sa ca ea * finValue sb cb eb ∧ ideal = ea + eb ∧
        ((F = .dfp64 ∧ i = .dmul frt fra frb rc) ∨ (F = .dfp128 ∧ i = .dmulq frt fra frb rc))) ∨
      (x = finValue sa ca ea / finValue sb cb eb ∧ cb ≠ 0 ∧ ideal = ea - eb ∧
        ((F = .dfp64 ∧ i = .ddiv frt fra frb rc) ∨ (F = .dfp128 ∧ i = .ddivq frt fra frb rc))) →
    (F = .dfp64 ∧ alpha = 576) ∨ (F = .dfp128 ∧ alpha = 9216) →
    i.wellFormed = true → sourceDfp F s fra = .fin sa ca ea → sourceDfp F s frb = .fin sb cb eb → x ≠ 0 →
    (sg = true ↔ x < 0) →
    ∃ t, exec i s = .next t ∧ Delivery F F alpha ideal frt sg |x| s t

/-- 41_dfp_execution_model.md R195: a finite nonzero dividend and a zero divisor. Disabled: the default infinity of the
sign of the quotient. Enabled: the target and FPRF are unchanged. In both ZX is set and FR = FI = 0. With ZE = 1, FEX is 1
(10_state.md R34), and the handler is invoked in Precise Mode, not in Ignore Exceptions Mode (60_exceptions.md R377, the
outcome held in `trapAt`: log entry 5, DESIGN CHOICE). -/
def Obligations.ZeroDivideActions : Prop :=
  ∀ (F : Format) (op : FReg → FReg → FReg → Bool → Instr) (s : State) (frt fra frb : FReg) (rc : Bool)
    (sa sb : Bool) (ca : Nat) (ea eb : Int),
    (F = .dfp64 ∧ op = .ddiv) ∨ (F = .dfp128 ∧ op = .ddivq) →
    (op frt fra frb rc).wellFormed = true → sourceDfp F s fra = .fin sa ca ea → ca ≠ 0 →
    sourceDfp F s frb = .fin sb 0 eb →
    ∃ t, exec (op frt fra frb rc) s = .next t ∧ bitAt t.fpscr 37 = true ∧ roundingFlagsClear t.fpscr = true ∧
      (bitAt s.fpscr 59 = true →
        t.fpr = s.fpr ∧ fprfField t.fpscr = fprfField s.fpscr ∧ bitAt t.fpscr 33 = true ∧
          (s.feMode = 0b11#2 → t.trapAt = some s.pc ∧ t.pc = s.pc) ∧ (s.feMode = 0b00#2 → Completed s t)) ∧
      (bitAt s.fpscr 59 = false →
        sourceDfp F t frt = .inf (sa ^^ sb) 0 ∧
          fprfField t.fpscr = (if (sa ^^ sb) = true then 0b01001#5 else 0b00101#5) ∧ Completed s t)

/-- 42_arithmetic.md R222, R225, R227, R230: the arithmetic instructions on infinities, and zero over zero. Infinity minus
infinity, infinity times zero, infinity over infinity and zero over zero set their own Invalid Operation bit, disabled with
the default quiet NaN. Every other row with an infinity is exact: the default infinity of the infinite operand in a sum, of
the exclusive-OR of the signs in a product or an infinite quotient, and a true zero, of exponent Xmin, of a finite number
over an infinity. -/
def Obligations.InfinityArithmetic : Prop :=
  ∀ (F : Format) (s : State) (frt fra frb : FReg) (rc sub : Bool) (i : Instr), i.wellFormed = true →
    ((F = .dfp64 ∧ sub = false ∧ i = .dadd frt fra frb rc) ∨ (F = .dfp128 ∧ sub = false ∧ i = .daddq frt fra frb rc) ∨
        (F = .dfp64 ∧ sub = true ∧ i = .dsub frt fra frb rc) ∨ (F = .dfp128 ∧ sub = true ∧ i = .dsubq frt fra frb rc) →
      ∀ (sa sb : Bool) (ca cb : Nat) (e : Int),
        (sourceDfp F s fra = .inf sa ca → sourceDfp F s frb = .inf sb cb → sa ≠ (sb ^^ sub) →
          ∃ t, exec i s = .next t ∧ InvalidResult F frt (.qnan false 0) 40 s t) ∧
        (sourceDfp F s fra = .inf sa ca → sourceDfp F s frb = .inf sb cb → sa = (sb ^^ sub) →
          ∃ t, exec i s = .next t ∧ ExactResult F frt (.inf sa 0) s t) ∧
        (sourceDfp F s fra = .inf sa ca → sourceDfp F s frb = .fin sb cb e →
          ∃ t, exec i s = .next t ∧ ExactResult F frt (.inf sa 0) s t) ∧
        (sourceDfp F s fra = .fin sa ca e → sourceDfp F s frb = .inf sb cb →
          ∃ t, exec i s = .next t ∧ ExactResult F frt (.inf (sb ^^ sub) 0) s t)) ∧
    ((F = .dfp64 ∧ i = .dmul frt fra frb rc) ∨ (F = .dfp128 ∧ i = .dmulq frt fra frb rc) →
      ∀ (sa sb : Bool) (ca cb : Nat) (e : Int),
        (sourceDfp F s fra = .inf sa ca → sourceDfp F s frb = .inf sb cb →
          ∃ t, exec i s = .next t ∧ ExactResult F frt (.inf (sa ^^ sb) 0) s t) ∧
        ((sourceDfp F s fra = .inf sa ca ∧ sourceDfp F s frb = .fin sb cb e ∧ cb ≠ 0) ∨
            (sourceDfp F s fra = .fin sa ca e ∧ ca ≠ 0 ∧ sourceDfp F s frb = .inf sb cb) →
          ∃ t, exec i s = .next t ∧ ExactResult F frt (.inf (sa ^^ sb) 0) s t) ∧
        ((sourceDfp F s fra = .inf sa ca ∧ sourceDfp F s frb = .fin sb 0 e) ∨
            (sourceDfp F s fra = .fin sa 0 e ∧ sourceDfp F s frb = .inf sb cb) →
          ∃ t, exec i s = .next t ∧ InvalidResult F frt (.qnan false 0) 43 s t)) ∧
    ((F = .dfp64 ∧ i = .ddiv frt fra frb rc) ∨ (F = .dfp128 ∧ i = .ddivq frt fra frb rc) →
      ∀ (sa sb : Bool) (ca cb : Nat) (e e' : Int),
        (sourceDfp F s fra = .inf sa ca → sourceDfp F s frb = .inf sb cb →
          ∃ t, exec i s = .next t ∧ InvalidResult F frt (.qnan false 0) 41 s t) ∧
        (sourceDfp F s fra = .fin sa 0 e → sourceDfp F s frb = .fin sb 0 e' →
          ∃ t, exec i s = .next t ∧ InvalidResult F frt (.qnan false 0) 42 s t) ∧
        (sourceDfp F s fra = .inf sa ca → sourceDfp F s frb = .fin sb cb e →
          ∃ t, exec i s = .next t ∧ ExactResult F frt (.inf (sa ^^ sb) 0) s t) ∧
        (sourceDfp F s fra = .fin sa ca e → sourceDfp F s frb = .inf sb cb →
          ∃ t, exec i s = .next t ∧ ExactResult F frt (.fin (sa ^^ sb) 0 F.xmin) s t))

/-- 40_dfp_formats.md R145: which NaN an arithmetic instruction or `dqua[q]` propagates: a signaling NaN first, the one in FRA
before the one in FRB, as a quiet NaN with its sign and payload; a signaling one sets VXSNAN, and with VE = 1 the target
stays. That Subtract propagates a NaN in FRB with its own sign is the spec's decision D11, log entry 12 (DEDUCED). -/
def Obligations.NaNPropagation : Prop :=
  ∀ (F : Format) (s : State) (frt fra frb : FReg) (rc : Bool) (rmc : Fin 4) (i : Instr) (sg : Bool) (cc : Nat),
    (F = .dfp64 ∧ (i = .dadd frt fra frb rc ∨ i = .dsub frt fra frb rc ∨ i = .dmul frt fra frb rc ∨
      i = .ddiv frt fra frb rc ∨ i = .dqua frt fra frb rmc rc)) ∨
    (F = .dfp128 ∧ (i = .daddq frt fra frb rc ∨ i = .dsubq frt fra frb rc ∨ i = .dmulq frt fra frb rc ∨
      i = .ddivq frt fra frb rc ∨ i = .dquaq frt fra frb rmc rc)) →
    i.wellFormed = true →
    (sourceDfp F s fra = .snan sg cc ∨ ((sourceDfp F s fra).isSNaN = false ∧ sourceDfp F s frb = .snan sg cc) →
      ∃ t, exec i s = .next t ∧ InvalidResult F frt (.qnan sg cc) 39 s t) ∧
    ((sourceDfp F s fra = .qnan sg cc ∧ (sourceDfp F s frb).isSNaN = false) ∨
        ((sourceDfp F s fra).isNaN = false ∧ sourceDfp F s frb = .qnan sg cc) →
      ∃ t, exec i s = .next t ∧ ExactResult F frt (.qnan sg cc) s t ∧ fprfField t.fpscr = 0b10001#5)

/-- 41_dfp_execution_model.md R197 for a product of at least 10^(Xmax + p): OX, XX and FI are set, the result is an infinity
with FR = 1 or Nmax with FR = 0, by the rounding mode and the sign. -/
def Obligations.ProductOverflowDisabled : Prop :=
  ∀ (F : Format) (op : FReg → FReg → FReg → Bool → Instr) (s : State) (frt fra frb : FReg) (rc : Bool)
    (sa sb : Bool) (ca cb : Nat) (ea eb : Int),
    (F = .dfp64 ∧ op = .dmul) ∨ (F = .dfp128 ∧ op = .dmulq) →
    (op frt fra frb rc).wellFormed = true → sourceDfp F s fra = .fin sa ca ea → sourceDfp F s frb = .fin sb cb eb →
    (10 : ℚ) ^ (F.xmax + F.prec) ≤ finValue false (ca * cb) (ea + eb) → noEnables s.fpscr = true →
    ∃ t, exec (op frt fra frb rc) s = .next t ∧ Completed s t ∧
      bitAt t.fpscr 35 = true ∧ bitAt t.fpscr 38 = true ∧ bitAt t.fpscr 46 = true ∧
      (if drnMode s.fpscr = .rne ∨ drnMode s.fpscr = .rnaz ∨ drnMode s.fpscr = .rntz ∨ drnMode s.fpscr = .rafz ∨
          (drnMode s.fpscr = .rtpi ∧ (sa ^^ sb) = false) ∨ (drnMode s.fpscr = .rtmi ∧ (sa ^^ sb) = true) then
        sourceDfp F t frt = .inf (sa ^^ sb) 0 ∧ bitAt t.fpscr 45 = true
      else sourceDfp F t frt = .fin (sa ^^ sb) (10 ^ F.prec - 1) F.xmax ∧ bitAt t.fpscr 45 = false)

/-! ### Compare and test -/

/-- 43_compare.md R241 to R245: without a NaN, finite numbers are compared by value, an infinity lies beyond every finite
number and equals the infinity of its sign, with no exception. -/
def Obligations.CompareByValue : Prop :=
  ∀ (F : Format) (op : CRField → FReg → FReg → Instr) (s : State) (bf : CRField) (fra frb : FReg),
    (F = .dfp64 ∧ (op = .dcmpu ∨ op = .dcmpo)) ∨ (F = .dfp128 ∧ (op = .dcmpuq ∨ op = .dcmpoq)) →
    (op bf fra frb).wellFormed = true → (sourceDfp F s fra).isNaN = false → (sourceDfp F s frb).isNaN = false →
    ∃ t code, exec (op bf fra frb) s = .next t ∧ StatusKept s t ∧ CodeResult bf code s t ∧
      (∀ sa ca ea sb cb eb, sourceDfp F s fra = .fin sa ca ea → sourceDfp F s frb = .fin sb cb eb →
        code = if finValue sa ca ea < finValue sb cb eb then 0b1000#4
          else if finValue sb cb eb < finValue sa ca ea then 0b0100#4 else 0b0010#4) ∧
      (∀ sa cc sb cb eb, sourceDfp F s fra = .inf sa cc → sourceDfp F s frb = .fin sb cb eb →
        code = if sa = true then 0b1000#4 else 0b0100#4) ∧
      (∀ sa ca ea sb cc, sourceDfp F s fra = .fin sa ca ea → sourceDfp F s frb = .inf sb cc →
        code = if sb = true then 0b0100#4 else 0b1000#4) ∧
      (∀ sa cca sb ccb, sourceDfp F s fra = .inf sa cca → sourceDfp F s frb = .inf sb ccb →
        code = if sa = sb then 0b0010#4 else if sa = true then 0b1000#4 else 0b0100#4)

/-- 43_compare.md R241, R246: with a NaN operand the comparison is unordered, enabled or not; which Invalid Operation bits it
sets. It completes with VE = 0, without a cause, and in Ignore Exceptions Mode. -/
def Obligations.CompareNaN : Prop :=
  ∀ (F : Format) (ordered : Bool) (op : CRField → FReg → FReg → Instr) (s : State) (bf : CRField) (fra frb : FReg),
    (F = .dfp64 ∧ ((op = .dcmpu ∧ ordered = false) ∨ (op = .dcmpo ∧ ordered = true))) ∨
      (F = .dfp128 ∧ ((op = .dcmpuq ∧ ordered = false) ∨ (op = .dcmpoq ∧ ordered = true))) →
    (op bf fra frb).wellFormed = true →
    (sourceDfp F s fra).isNaN = true ∨ (sourceDfp F s frb).isNaN = true →
    ∃ t, exec (op bf fra frb) s = .next t ∧ t.cr[bf] = 0b0001#4 ∧ fpccField t.fpscr = 0b0001#4 ∧
      (if (sourceDfp F s fra).isSNaN = true ∨ (sourceDfp F s frb).isSNaN = true then
        bitAt t.fpscr 39 = true ∧ bitAt t.fpscr 44 = (bitAt s.fpscr 44 || (ordered && !bitAt s.fpscr 56))
      else bitAt t.fpscr 39 = bitAt s.fpscr 39 ∧ bitAt t.fpscr 44 = (bitAt s.fpscr 44 || ordered)) ∧
      (s.feMode = 0b00#2 ∨ bitAt s.fpscr 56 = false ∨
          (ordered = false ∧ (sourceDfp F s fra).isSNaN = false ∧ (sourceDfp F s frb).isSNaN = false) →
        CodeResult bf 0b0001#4 s t)

/-- 44_test.md R250 to R254: the class or group of the operand selects the mask bit, and CR[BF] and FPCC receive the code
sign || 0 || match || 0. -/
def Obligations.TestDataMasks : Prop :=
  ∀ (F : Format) (s : State) (bf : CRField) (fra : FReg) (mask : BitVec 6) (d : Dfp), sourceDfp F s fra = d →
    (∀ op : CRField → FReg → BitVec 6 → Instr,
      (F = .dfp64 ∧ op = .dtstdc) ∨ (F = .dfp128 ∧ op = .dtstdcq) → (op bf fra mask).wellFormed = true →
      ∃ t sgn k, exec (op bf fra mask) s = .next t ∧ StatusKept s t ∧
        CodeResult bf
          (if sgn = true then (if mask.getMsbD k = true then 0b1010#4 else 0b1000#4)
            else if mask.getMsbD k = true then 0b0010#4 else 0b0000#4) s t ∧
        (∀ sg c e, d = .fin sg c e → sgn = sg ∧ k = if c = 0 then 0
          else if finValue false c e < (10 : ℚ) ^ (F.xmin + F.prec - 1) then 1 else 2) ∧
        (∀ sg cc, d = .inf sg cc → sgn = sg ∧ k = 3) ∧ (∀ sg cc, d = .qnan sg cc → sgn = sg ∧ k = 4) ∧
        (∀ sg cc, d = .snan sg cc → sgn = sg ∧ k = 5)) ∧
    (∀ op : CRField → FReg → BitVec 6 → Instr,
      (F = .dfp64 ∧ op = .dtstdg) ∨ (F = .dfp128 ∧ op = .dtstdgq) → (op bf fra mask).wellFormed = true →
      ∃ t sgn k, exec (op bf fra mask) s = .next t ∧ StatusKept s t ∧
        CodeResult bf
          (if sgn = true then (if mask.getMsbD k = true then 0b1010#4 else 0b1000#4)
            else if mask.getMsbD k = true then 0b0010#4 else 0b0000#4) s t ∧
        (∀ sg c e, d = .fin sg c e →
          sgn = sg ∧ k = if c = 0 then (if e = F.xmin ∨ e = F.xmax then 1 else 0)
            else if finValue false c e < (10 : ℚ) ^ (F.xmin + F.prec - 1) ∨ e = F.xmin ∨ e = F.xmax then 2
            else if c < 10 ^ (F.prec - 1) then 3 else 4) ∧
        (∀ sg cc, d = .inf sg cc ∨ d = .qnan sg cc ∨ d = .snan sg cc → sgn = sg ∧ k = 5))

/-- 44_test.md R255, R256: exponents are compared; infinities are equal, NaNs are equal, other mixtures unordered. -/
def Obligations.TestExponents : Prop :=
  ∀ (F : Format) (op : CRField → FReg → FReg → Instr) (s : State) (bf : CRField) (fra frb : FReg),
    (F = .dfp64 ∧ op = .dtstex) ∨ (F = .dfp128 ∧ op = .dtstexq) → (op bf fra frb).wellFormed = true →
    ∃ t code, exec (op bf fra frb) s = .next t ∧ CodeResult bf code s t ∧ StatusKept s t ∧
      (∀ sa ca ea sb cb eb, sourceDfp F s fra = .fin sa ca ea → sourceDfp F s frb = .fin sb cb eb →
        code = if ea < eb then 0b1000#4 else if eb < ea then 0b0100#4 else 0b0010#4) ∧
      (∀ sa ca sb cb, sourceDfp F s fra = .inf sa ca → sourceDfp F s frb = .inf sb cb → code = 0b0010#4) ∧
      ((sourceDfp F s fra).isNaN = true → (sourceDfp F s frb).isNaN = true → code = 0b0010#4) ∧
      ((sourceDfp F s fra).isNaN ≠ (sourceDfp F s frb).isNaN → code = 0b0001#4) ∧
      (∀ sa ca ea sb cb, sourceDfp F s fra = .fin sa ca ea → sourceDfp F s frb = .inf sb cb → code = 0b0001#4) ∧
      (∀ sa ca sb cb eb, sourceDfp F s fra = .inf sa ca → sourceDfp F s frb = .fin sb cb eb → code = 0b0001#4)

/-- 44_test.md R257 to R259: k, bits 58:63 of FRA, is compared to the number of digits of the coefficient. -/
def Obligations.TestSignificances : Prop :=
  ∀ (F : Format) (op : CRField → FReg → FReg → Instr) (s : State) (bf : CRField) (fra frb : FReg) (k : Nat),
    (F = .dfp64 ∧ op = .dtstsf) ∨ (F = .dfp128 ∧ op = .dtstsfq) → (op bf fra frb).wellFormed = true →
    ((readFpr s fra).extractLsb' 0 6).toNat = k →
    ∃ t code, exec (op bf fra frb) s = .next t ∧ CodeResult bf code s t ∧ StatusKept s t ∧
      (∀ sb cb eb, sourceDfp F s frb = .fin sb cb eb →
        code = if k = 0 ∨ cb < 10 ^ (k - 1) then 0b0100#4 else if 10 ^ k ≤ cb then 0b1000#4 else 0b0010#4) ∧
      ((∃ sg cc, sourceDfp F s frb = .inf sg cc ∨ sourceDfp F s frb = .qnan sg cc ∨ sourceDfp F s frb = .snan sg cc) →
        code = 0b0001#4)

/-! ### Quantum adjustment -/

/-- 45_quantum_adjustment.md R270, R272 to R276: a finite operand is brought to the target exponent: exactly where that needs
no more digits than the format has, by rounding where digits are lost; otherwise VXCVI, and disabled the default quiet NaN.
For every setting of the enables. The digit that RFSP tests is the spec's decision D12, log entry 12 (DEDUCED). -/
def Obligations.QuantizeFinite : Prop :=
  ∀ (F : Format) (s : State) (frt fra frb : FReg) (te5 : BitVec 5) (rmc : Fin 4) (rc : Bool) (i : Instr)
    (sb : Bool) (cb : Nat) (te se : Int),
    ((∃ sa ca, sourceDfp F s fra = .fin sa ca te) ∧
        ((F = .dfp64 ∧ i = .dqua frt fra frb rmc rc) ∨ (F = .dfp128 ∧ i = .dquaq frt fra frb rmc rc))) ∨
      (te5.toInt = te ∧
        ((F = .dfp64 ∧ i = .dquai frt te5 frb rmc rc) ∨ (F = .dfp128 ∧ i = .dquaiq frt te5 frb rmc rc))) →
    i.wellFormed = true → sourceDfp F s frb = .fin sb cb se →
    ∃ t, exec i s = .next t ∧
      (te ≤ se → cb * 10 ^ (se - te).toNat < 10 ^ F.prec →
        ExactResult F frt (.fin sb (cb * 10 ^ (se - te).toNat) te) s t) ∧
      (te ≤ se → 10 ^ F.prec ≤ cb * 10 ^ (se - te).toNat →
        InvalidResult F frt (.qnan false 0) 55 s t ∧ bitAt t.fpscr 38 = bitAt s.fpscr 38) ∧
      (se < te → ∃ n fi fr, RoundsTo (rmcMode false rmc s.fpscr) sb ((cb : ℚ) / 10 ^ (te - se).toNat) n ∧
        (fi = true ↔ (n : ℚ) ≠ (cb : ℚ) / 10 ^ (te - se).toNat) ∧ (fr = true ↔ (cb : ℚ) / 10 ^ (te - se).toNat < n) ∧
        AdjustedResult F frt (.fin sb n te) fi fr s t)

/-- 45_quantum_adjustment.md R270, R277 to R279: with k = 0 or at most k digits the value and form stay; otherwise the operand
is rounded to k digits in the mode of RMC, and when the exponent of the rounded form exceeds Xmax, and only then, it is
VXCVI, disabled with the default quiet NaN. For every setting of the enables. The digit that RFSP tests is the spec's
decision D12, log entry 12 (DEDUCED). -/
def Obligations.ReroundFinite : Prop :=
  ∀ (F : Format) (op : FReg → FReg → FReg → Fin 4 → Bool → Instr) (s : State) (frt fra frb : FReg) (rmc : Fin 4)
    (rc : Bool) (sb : Bool) (cb k : Nat) (se : Int),
    (F = .dfp64 ∧ op = .drrnd) ∨ (F = .dfp128 ∧ op = .drrndq) → (op frt fra frb rmc rc).wellFormed = true →
    ((readFpr s fra).extractLsb' 0 6).toNat = k → sourceDfp F s frb = .fin sb cb se →
    ∃ t, exec (op frt fra frb rmc rc) s = .next t ∧
      (k = 0 ∨ cb < 10 ^ k → ExactResult F frt (.fin sb cb se) s t) ∧
      (k ≠ 0 → 10 ^ k ≤ cb →
        ∃ n e, RoundsToDigits k (rmcMode false rmc s.fpscr) sb (finValue false cb se) n e ∧
          (e ≤ F.xmax → ∃ fi fr, (fi = true ↔ finValue false n e ≠ finValue false cb se) ∧
            (fr = true ↔ finValue false cb se < finValue false n e) ∧
            AdjustedResult F frt (.fin sb n e) fi fr s t) ∧
          (F.xmax < e →
            InvalidResult F frt (.qnan false 0) 55 s t ∧ bitAt t.fpscr 38 = bitAt s.fpscr 38))

/-- 45_quantum_adjustment.md R270, R280 to R284: a finite operand with exponent at least 0 stays; another is rounded to
exponent 0, with FI, FR and XX for drintx[q], none of them for drintn[q]. For every setting of the enables. The digit that
RFSP tests is the spec's decision D12, log entry 12 (DEDUCED). -/
def Obligations.RoundToFpInteger : Prop :=
  ∀ (F : Format) (wi : Bool) (op : FReg → Bool → FReg → Fin 4 → Bool → Instr) (s : State) (frt frb : FReg) (r : Bool)
    (rmc : Fin 4) (rc : Bool) (sb : Bool) (cb : Nat) (se : Int),
    (F = .dfp64 ∧ ((op = .drintx ∧ wi = true) ∨ (op = .drintn ∧ wi = false))) ∨
      (F = .dfp128 ∧ ((op = .drintxq ∧ wi = true) ∨ (op = .drintnq ∧ wi = false))) →
    (op frt r frb rmc rc).wellFormed = true → sourceDfp F s frb = .fin sb cb se →
    ∃ t, exec (op frt r frb rmc rc) s = .next t ∧
      (0 ≤ se → ExactResult F frt (.fin sb cb se) s t) ∧
      (se < 0 → ∃ n fi fr, RoundsTo (rmcMode r rmc s.fpscr) sb (finValue false cb se) n ∧
        (fi = true ↔ wi = true ∧ (n : ℚ) ≠ finValue false cb se) ∧
        (fr = true ↔ wi = true ∧ finValue false cb se < n) ∧ AdjustedResult F frt (.fin sb n 0) fi fr s t)

/-- 45_quantum_adjustment.md R272 to R284: the quantum-adjustment instructions on infinities and NaNs. Two infinities of
`dqua[q]`, and an infinity of `drrnd[q]`, `drintx[q]` and `drintn[q]`, give the default infinity of the sign of FRB; one
infinity of `dqua[q]` beside a finite operand, and an infinity of `dquai[q]`, are VXCVI. A quiet NaN in FRB is propagated, a
signaling one made quiet with VXSNAN. (NaNs of `dqua[q]` are in `NaNPropagation`.) -/
def Obligations.QuantumSpecials : Prop :=
  ∀ (F : Format) (s : State) (frt fra frb : FReg) (te : BitVec 5) (r rc : Bool) (rmc : Fin 4) (i : Instr) (sg : Bool)
    (cc : Nat), i.wellFormed = true →
    ((F = .dfp64 ∧ i = .dqua frt fra frb rmc rc) ∨ (F = .dfp128 ∧ i = .dquaq frt fra frb rmc rc) →
      ((∃ sa ca, sourceDfp F s fra = .inf sa ca) → sourceDfp F s frb = .inf sg cc →
        ∃ t, exec i s = .next t ∧ ExactResult F frt (.inf sg 0) s t) ∧
      (((∃ sa ca, sourceDfp F s fra = .inf sa ca) ∧ ∃ sb cb eb, sourceDfp F s frb = .fin sb cb eb) ∨
          ((∃ sa ca ea, sourceDfp F s fra = .fin sa ca ea) ∧ sourceDfp F s frb = .inf sg cc) →
        ∃ t, exec i s = .next t ∧ InvalidResult F frt (.qnan false 0) 55 s t)) ∧
    ((F = .dfp64 ∧ i = .dquai frt te frb rmc rc) ∨ (F = .dfp128 ∧ i = .dquaiq frt te frb rmc rc) →
      sourceDfp F s frb = .inf sg cc → ∃ t, exec i s = .next t ∧ InvalidResult F frt (.qnan false 0) 55 s t) ∧
    ((F = .dfp64 ∧ (i = .drrnd frt fra frb rmc rc ∨ i = .drintx frt r frb rmc rc ∨ i = .drintn frt r frb rmc rc)) ∨
        (F = .dfp128 ∧
          (i = .drrndq frt fra frb rmc rc ∨ i = .drintxq frt r frb rmc rc ∨ i = .drintnq frt r frb rmc rc)) →
      sourceDfp F s frb = .inf sg cc → ∃ t, exec i s = .next t ∧ ExactResult F frt (.inf sg 0) s t) ∧
    ((F = .dfp64 ∧ (i = .dquai frt te frb rmc rc ∨ i = .drrnd frt fra frb rmc rc ∨ i = .drintx frt r frb rmc rc ∨
          i = .drintn frt r frb rmc rc)) ∨
        (F = .dfp128 ∧ (i = .dquaiq frt te frb rmc rc ∨ i = .drrndq frt fra frb rmc rc ∨
          i = .drintxq frt r frb rmc rc ∨ i = .drintnq frt r frb rmc rc)) →
      (sourceDfp F s frb = .qnan sg cc → ∃ t, exec i s = .next t ∧ ExactResult F frt (.qnan sg cc) s t) ∧
      (sourceDfp F s frb = .snan sg cc → ∃ t, exec i s = .next t ∧ InvalidResult F frt (.qnan sg cc) 39 s t))

/-! ### Conversion -/

/-- 46_conversion.md R301, R302: `dctdp` delivers the DFP32 value, special or finite, as a DFP64 value; FPRF is its class, no
other FPSCR bit but the recomputed summaries changes. `dctqpq` delivers the DFP64 value as a DFP128 value, an infinity as the
default one, and makes a signaling NaN quiet with VXSNAN. -/
def Obligations.Widening : Prop :=
  ∀ (s : State) (frt frb : FReg) (rc : Bool),
    (∃ t, exec (.dctdp frt frb rc) s = .next t ∧ Completed s t ∧ sourceDfp .dfp64 t frt = sourceDfp .dfp32 s frb ∧
      fprfField t.fpscr = fprfOf .dfp64 (sourceDfp .dfp32 s frb) ∧ FpscrKept [33, 34, 47, 48, 49, 50, 51] s t) ∧
    (frt.val % 2 = 0 →
      (∀ d : Dfp, sourceDfp .dfp64 s frb = d → d.isSNaN = false →
        ∃ t, exec (.dctqpq frt frb rc) s = .next t ∧
          ExactResult .dfp128 frt (match d with | .inf sg _ => .inf sg 0 | d => d) s t) ∧
      (∀ sg cc, sourceDfp .dfp64 s frb = .snan sg cc →
        ∃ t, exec (.dctqpq frt frb rc) s = .next t ∧ InvalidResult .dfp128 frt (.qnan sg cc) 39 s t))

/-- 46_conversion.md R303, R304, R309: `drsp` and `drdpq` of a finite value, for every value of the bits the spec leaves open
(log entry 3). One that fits the narrower format is delivered unchanged (with UE = 0), a zero with its exponent clamped to
the range, and every other is rounded by DRN to the narrower precision and delivered for every setting of the enables, a
wrapped result by 192 or 3072 in the source format. That the DFP64 result of `drdpq` is in FPR[FRTp] is log entry 13
(PRESUMED); the digit that RFSP tests is the spec's decision D12, log entry 12 (DEDUCED). -/
def Obligations.NarrowFinite : Prop :=
  ∀ (Fs Ft : Format) (alpha : Int) (s : State) (frt frb : FReg) (rc : Bool) (i : Instr) (sg : Bool) (c : Nat) (e : Int),
    (Fs = .dfp64 ∧ Ft = .dfp32 ∧ alpha = 192 ∧ i = .drsp frt frb rc) ∨
      (Fs = .dfp128 ∧ Ft = .dfp64 ∧ alpha = 3072 ∧ i = .drdpq frt frb rc) →
    i.wellFormed = true → sourceDfp Fs s frb = .fin sg c e →
    (c ≠ 0 → (Dfp.fin sg c e).fits Ft = true → bitAt s.fpscr 58 = false →
      ∃ t, exec i s = .next t ∧ ExactResult Ft frt (.fin sg c e) s t) ∧
    (c = 0 → ∃ t, exec i s = .next t ∧ ExactResult Ft frt (.fin sg 0 (max Ft.xmin (min e Ft.xmax))) s t) ∧
    (c ≠ 0 → ∃ t, exec i s = .next t ∧ Delivery Ft Fs alpha e frt sg (finValue false c e) s t)

/-- 46_conversion.md R303, R304, R308: `drsp` keeps a NaN or infinity with the rightmost 6 digits of its payload and raises
nothing, an SNaN among them; `drdpq` keeps a quiet NaN with 15 digits, delivers the default infinity, and makes a signaling
NaN quiet with VXSNAN set, the target staying with VE = 1. That the DFP64 result of `drdpq` is in FPR[FRTp] is log entry 13 (PRESUMED); FI = FR
= 0 for the specials of `drsp` is the spec's own inference in R303 (DEDUCED there, from R165). -/
def Obligations.NarrowSpecials : Prop :=
  ∀ (s : State) (frt frb : FReg) (rc : Bool) (sg : Bool) (cc : Nat),
    (∀ d : Dfp, sourceDfp .dfp64 s frb = d → d = .snan sg cc ∨ d = .qnan sg cc ∨ d = .inf sg cc →
      ∃ t, exec (.drsp frt frb rc) s = .next t ∧
        ExactResult .dfp32 frt (match d with
          | .snan sg cc => .snan sg (cc % 10 ^ 6)
          | .qnan sg cc => .qnan sg (cc % 10 ^ 6)
          | .inf sg cc => .inf sg (cc % 10 ^ 6)
          | d => d) s t) ∧
    (frt.val % 2 = 0 → frb.val % 2 = 0 → sourceDfp .dfp128 s frb = .qnan sg cc →
      ∃ t, exec (.drdpq frt frb rc) s = .next t ∧ ExactResult .dfp64 frt (.qnan sg (cc % 10 ^ 15)) s t) ∧
    (frt.val % 2 = 0 → frb.val % 2 = 0 → sourceDfp .dfp128 s frb = .inf sg cc →
      ∃ t, exec (.drdpq frt frb rc) s = .next t ∧ ExactResult .dfp64 frt (.inf sg 0) s t) ∧
    (frt.val % 2 = 0 → frb.val % 2 = 0 → sourceDfp .dfp128 s frb = .snan sg cc →
      ∃ t, exec (.drdpq frt frb rc) s = .next t ∧ InvalidResult .dfp64 frt (.qnan sg (cc % 10 ^ 15)) 39 s t)

/-- 46_conversion.md R305: `dcffixq` delivers the signed integer exactly with exponent 0. -/
def Obligations.FromFixed : Prop :=
  ∀ (s : State) (frt frb : FReg) (rc : Bool), frt.val % 2 = 0 →
    ∃ t, exec (.dcffixq frt frb rc) s = .next t ∧ Completed s t ∧
      sourceDfp .dfp128 t frt = .fin (decide ((readFpr s frb).toInt < 0)) (readFpr s frb).toInt.natAbs 0 ∧
      fprfField t.fpscr = (if (readFpr s frb).toInt < 0 then 0b01000#5
        else if (readFpr s frb).toInt = 0 then 0b00010#5 else 0b00100#5) ∧
      FpscrKept [33, 34, 47, 48, 49, 50, 51] s t

/-- 46_conversion.md R306, R307: `dctfix[q]` of a finite operand with exponent at least 0 that is in range delivers it; out of
range, or of an infinity or NaN, it sets VXCVI and, disabled, delivers the most positive or most negative integer. FPRF is
unchanged. With VE = 0, whatever else is enabled; `EnabledInvalidSuppresses` says what VE = 1 does. -/
def Obligations.ToFixed : Prop :=
  ∀ (F : Format) (op : FReg → FReg → Bool → Instr) (s : State) (frt frb : FReg) (rc : Bool),
    (F = .dfp64 ∧ op = .dctfix) ∨ (F = .dfp128 ∧ op = .dctfixq) → (op frt frb rc).wellFormed = true →
    bitAt s.fpscr 56 = false →
    ∃ t, exec (op frt frb rc) s = .next t ∧ fprfField t.fpscr = fprfField s.fpscr ∧
      (∀ sg c e, sourceDfp F s frb = .fin sg c e → 0 ≤ e →
        Completed s t ∧
        (c * 10 ^ e.toNat < 2 ^ 63 ∨ (sg = true ∧ c * 10 ^ e.toNat = 2 ^ 63) →
          (readFpr t frt).toInt = (if sg = true then -1 else 1) * ((c * 10 ^ e.toNat : Nat) : Int) ∧
          roundingFlagsClear t.fpscr = true ∧ StatusKept s t) ∧
        (2 ^ 63 < c * 10 ^ e.toNat ∨ (sg = false ∧ c * 10 ^ e.toNat = 2 ^ 63) →
          readFpr t frt = (if sg = true then 0x8000000000000000#64 else 0x7FFFFFFFFFFFFFFF#64) ∧
          bitAt t.fpscr 55 = true ∧ roundingFlagsClear t.fpscr = true)) ∧
      (∀ sg cc, sourceDfp F s frb = .inf sg cc →
        Completed s t ∧ readFpr t frt = (if sg = true then 0x8000000000000000#64 else 0x7FFFFFFFFFFFFFFF#64) ∧
        bitAt t.fpscr 55 = true ∧ bitAt t.fpscr 39 = bitAt s.fpscr 39 ∧ roundingFlagsClear t.fpscr = true) ∧
      ((sourceDfp F s frb).isNaN = true →
        Completed s t ∧ readFpr t frt = 0x8000000000000000#64 ∧ bitAt t.fpscr 55 = true ∧
          bitAt t.fpscr 39 = (bitAt s.fpscr 39 || (sourceDfp F s frb).isSNaN) ∧ roundingFlagsClear t.fpscr = true)

/-- 46_conversion.md R306, R307: `dctfix[q]` rounds every finite operand by DRN to an integer and tests the rounded integer
for range. In range it is delivered, with FI, FR and XX from the rounding, the most negative and the most positive integer
among them; out of range it is VXCVI without XX, disabled with the most positive or most negative integer. FPRF is unchanged.
For every setting of the enables. The digit that RFSP tests is the spec's decision D12, log entry 12 (DEDUCED). -/
def Obligations.ToFixedRounds : Prop :=
  ∀ (F : Format) (op : FReg → FReg → Bool → Instr) (s : State) (frt frb : FReg) (rc : Bool) (sg : Bool) (c : Nat)
    (e : Int),
    (F = .dfp64 ∧ op = .dctfix) ∨ (F = .dfp128 ∧ op = .dctfixq) → (op frt frb rc).wellFormed = true →
    sourceDfp F s frb = .fin sg c e →
    ∃ t n, exec (op frt frb rc) s = .next t ∧ RoundsTo (drnMode s.fpscr) sg (finValue false c e) n ∧
      fprfField t.fpscr = fprfField s.fpscr ∧
      (n < 2 ^ 63 ∨ (sg = true ∧ n = 2 ^ 63) →
        (readFpr t frt).toInt = (if sg = true then -1 else 1) * (n : Int) ∧
        (bitAt t.fpscr 46 = true ↔ (n : ℚ) ≠ finValue false c e) ∧
        (bitAt t.fpscr 45 = true ↔ finValue false c e < n) ∧
        bitAt t.fpscr 38 = (bitAt s.fpscr 38 || bitAt t.fpscr 46) ∧ bitAt t.fpscr 55 = bitAt s.fpscr 55 ∧
        ((n : ℚ) = finValue false c e ∨ bitAt s.fpscr 60 = false ∨ s.feMode = 0b00#2 → Completed s t) ∧
        ((n : ℚ) ≠ finValue false c e → bitAt s.fpscr 60 = true → bitAt t.fpscr 33 = true)) ∧
      (2 ^ 63 < n ∨ (sg = false ∧ n = 2 ^ 63) →
        bitAt t.fpscr 55 = true ∧ bitAt t.fpscr 34 = true ∧ roundingFlagsClear t.fpscr = true ∧
        bitAt t.fpscr 38 = bitAt s.fpscr 38 ∧
        (bitAt s.fpscr 56 = false →
          Completed s t ∧ readFpr t frt = if sg = true then 0x8000000000000000#64 else 0x7FFFFFFFFFFFFFFF#64) ∧
        (bitAt s.fpscr 56 = true → t.fpr = s.fpr ∧ bitAt t.fpscr 33 = true))

/-! ### Format instructions -/

/-- 47_format.md R331, R332: `ddedpd[q]` puts the rightmost digits of the coefficient, or of the CC digits of a special, in
the nibbles of FRT[p]: all of them, or all but the rightmost, which is then the sign code. The FPSCR stays. -/
def Obligations.DecodeToBcd : Prop :=
  ∀ (F : Format) (op : FReg → Bool → Bool → FReg → Bool → Instr) (s : State) (frt frb : FReg) (sp0 sp1 rc : Bool),
    (F = .dfp64 ∧ op = .ddedpd) ∨ (F = .dfp128 ∧ op = .ddedpdq) → (op frt sp0 sp1 frb rc).wellFormed = true →
    ∃ t, exec (op frt sp0 sp1 frb rc) s = .next t ∧ PlainResult s t ∧
      ∀ n : Nat, (∃ sg e, sourceDfp F s frb = .fin sg n e) ∨
          (∃ sg, sourceDfp F s frb = .inf sg n ∨ sourceDfp F s frb = .qnan sg n ∨ sourceDfp F s frb = .snan sg n) →
        ∀ k : Nat, k < F.width / 4 →
          sourceBits F t frt / 16 ^ k % 16 =
            if sp0 = false then n / 10 ^ k % 10
            else if k = 0 then (if (sourceDfp F s frb).sign = true then 13 else if sp1 = true then 15 else 12)
            else n / 10 ^ (k - 1) % 10

/-- 47_format.md R333, R334: `denbcd[q]` of nibbles that are the digits of n, with a sign code in the rightmost one when
S = 1, delivers n with that sign and exponent 0. An invalid digit or sign code sets VXCVI: with VE = 0 the default quiet NaN
is delivered, with VE = 1 the target stays. That a minus sign code with zero digits gives -0 is the spec's decision D18, log entry 12
(DEDUCED). -/
def Obligations.EncodeFromBcd : Prop :=
  ∀ (F : Format) (op : FReg → Bool → FReg → Bool → Instr) (s : State) (frt frb : FReg) (sgn rc : Bool),
    (F = .dfp64 ∧ op = .denbcd) ∨ (F = .dfp128 ∧ op = .denbcdq) → (op frt sgn frb rc).wellFormed = true →
    (∀ n : Nat, sgn = false → n < 10 ^ (F.width / 4) →
      (∀ k, k < F.width / 4 → sourceBits F s frb / 16 ^ k % 16 = n / 10 ^ k % 10) →
      ∃ t, exec (op frt sgn frb rc) s = .next t ∧ ExactResult F frt (.fin false n 0) s t) ∧
    (∀ n : Nat, sgn = true → n < 10 ^ (F.width / 4 - 1) →
      (∀ k, k < F.width / 4 - 1 → sourceBits F s frb / 16 ^ (k + 1) % 16 = n / 10 ^ k % 10) →
      10 ≤ sourceBits F s frb % 16 →
      ∃ t, exec (op frt sgn frb rc) s = .next t ∧
        ExactResult F frt (.fin (decide (sourceBits F s frb % 16 = 11 ∨ sourceBits F s frb % 16 = 13)) n 0) s t) ∧
    ((∃ k, k < F.width / 4 ∧ (sgn = false ∨ 0 < k) ∧ 9 < sourceBits F s frb / 16 ^ k % 16) ∨
        (sgn = true ∧ sourceBits F s frb % 16 < 10) →
      ∃ t, exec (op frt sgn frb rc) s = .next t ∧ InvalidResult F frt (.qnan false 0) 55 s t)

/-- 47_format.md R340, R341: `dxex[q]` returns the biased exponent, or -1, -2, -3 for an infinity, a QNaN, an SNaN: codes of
the spec's own general knowledge (log entry 13). -/
def Obligations.ExtractExponent : Prop :=
  ∀ (F : Format) (op : FReg → FReg → Bool → Instr) (s : State) (frt frb : FReg) (rc : Bool),
    (F = .dfp64 ∧ op = .dxex) ∨ (F = .dfp128 ∧ op = .dxexq) → (op frt frb rc).wellFormed = true →
    ∃ t, exec (op frt frb rc) s = .next t ∧ PlainResult s t ∧
      (∀ sg c e, sourceDfp F s frb = .fin sg c e → (readFpr t frt).toInt = e + F.bias) ∧
      (∀ sg cc, sourceDfp F s frb = .inf sg cc → (readFpr t frt).toInt = -1) ∧
      (∀ sg cc, sourceDfp F s frb = .qnan sg cc → (readFpr t frt).toInt = -2) ∧
      (∀ sg cc, sourceDfp F s frb = .snan sg cc → (readFpr t frt).toInt = -3)

/-- 47_format.md R342, R343: what `diex[q]` delivers for each value of FRA; a finite operand's leftmost digit is kept only
under a finite exponent. The values of FRA are the spec's own general knowledge (log entry 13). -/
def Obligations.InsertExponent : Prop :=
  ∀ (F : Format) (op : FReg → FReg → FReg → Bool → Instr) (s : State) (frt fra frb : FReg) (rc : Bool) (sg : Bool)
    (n : Nat),
    (F = .dfp64 ∧ op = .diex) ∨ (F = .dfp128 ∧ op = .diexq) → (op frt fra frb rc).wellFormed = true →
    (∃ e, sourceDfp F s frb = .fin sg n e) ∨ sourceDfp F s frb = .inf sg n ∨ sourceDfp F s frb = .qnan sg n ∨
      sourceDfp F s frb = .snan sg n →
    ∃ t, exec (op frt fra frb rc) s = .next t ∧ PlainResult s t ∧
      sourceDfp F t frt =
        if 0 ≤ (readFpr s fra).toInt ∧ (readFpr s fra).toInt ≤ F.maxBiased then
          .fin sg n ((readFpr s fra).toInt - F.bias)
        else if (readFpr s fra).toInt = -1 then .inf sg (n % 10 ^ (F.prec - 1))
        else if (readFpr s fra).toInt = -3 then .snan sg (n % 10 ^ (F.prec - 1))
        else .qnan sg (n % 10 ^ (F.prec - 1))

/-- 47_format.md R339, R344 to R347: the digits of the coefficient, or of the CC field of a special, are shifted; sign,
exponent and class stay. The bodies are the spec's own general knowledge (log entry 13). -/
def Obligations.ShiftCoefficients : Prop :=
  ∀ (F : Format) (left : Bool) (op : FReg → FReg → Fin 64 → Bool → Instr) (s : State) (frt fra : FReg) (sh : Fin 64)
    (rc : Bool),
    (F = .dfp64 ∧ ((op = .dscli ∧ left = true) ∨ (op = .dscri ∧ left = false))) ∨
      (F = .dfp128 ∧ ((op = .dscliq ∧ left = true) ∨ (op = .dscriq ∧ left = false))) →
    (op frt fra sh rc).wellFormed = true →
    ∃ t, exec (op frt fra sh rc) s = .next t ∧ PlainResult s t ∧
      (∀ sg c e, sourceDfp F s fra = .fin sg c e →
        sourceDfp F t frt = .fin sg (if left = true then c * 10 ^ sh.val % 10 ^ F.prec else c / 10 ^ sh.val) e) ∧
      (∀ sg cc, sourceDfp F s fra = .inf sg cc →
        sourceDfp F t frt =
          .inf sg (if left = true then cc * 10 ^ sh.val % 10 ^ (F.prec - 1) else cc / 10 ^ sh.val)) ∧
      (∀ sg cc, sourceDfp F s fra = .qnan sg cc →
        sourceDfp F t frt =
          .qnan sg (if left = true then cc * 10 ^ sh.val % 10 ^ (F.prec - 1) else cc / 10 ^ sh.val)) ∧
      (∀ sg cc, sourceDfp F s fra = .snan sg cc →
        sourceDfp F t frt =
          .snan sg (if left = true then cc * 10 ^ sh.val % 10 ^ (F.prec - 1) else cc / 10 ^ sh.val))

/-! ### The host's actions -/

/-- 70_reset_and_hazards.md R405, R410, 60_exceptions.md R376. With nothing pending, `GetFPSCR` returns the register and
`SetFPSCR` writes the selected bits but FEX and VX, which it cannot alter explicitly: they are what 10_state.md R34 and R35
say of the others. When that leaves FEX = 1 outside Ignore Exceptions Mode it raises the enabled exception; that the machine
continues at the same pc is log entry 11 (DEDUCED), that it does so in the trapped state too is log entry 16 (DESIGN CHOICE).
With an exception pending, both take the trap first, whatever the mode is by then (log entry 17, DESIGN CHOICE); that the
write is then not made is log entry 11. That a selected reserved bit is written like any other is log entry 18 (DESIGN CHOICE). -/
def Obligations.HostFpscrAccess : Prop :=
  ∀ (s : State) (mask v : BitVec 64),
    (s.pending = false →
      hostGetFpscr s = .inr s.fpscr ∧
      (∀ b, b < 64 → b ≠ 33 → b ≠ 34 →
        bitAt (hostSetFpscr mask v s).fpscr b = if bitAt mask b = true then bitAt v b else bitAt s.fpscr b) ∧
      summariesHold (hostSetFpscr mask v s).fpscr = true ∧ (hostSetFpscr mask v s).fpr = s.fpr ∧
      (hostSetFpscr mask v s).cr = s.cr ∧ (hostSetFpscr mask v s).pc = s.pc ∧
      (bitAt (hostSetFpscr mask v s).fpscr 33 = false ∨ s.feMode = 0b00#2 →
        (hostSetFpscr mask v s).trapAt = s.trapAt ∧ (hostSetFpscr mask v s).pending = false) ∧
      (bitAt (hostSetFpscr mask v s).fpscr 33 = true → s.feMode = 0b11#2 →
        (hostSetFpscr mask v s).trapAt = some s.pc ∧ (hostSetFpscr mask v s).pending = false) ∧
      (bitAt (hostSetFpscr mask v s).fpscr 33 = true → s.feMode = 0b01#2 ∨ s.feMode = 0b10#2 →
        (hostSetFpscr mask v s).trapAt = some s.pc ∨
          ((hostSetFpscr mask v s).trapAt = s.trapAt ∧ (hostSetFpscr mask v s).pending = true))) ∧
    (s.pending = true →
      hostGetFpscr s = .inl (hostSetFpscr mask v s) ∧ (hostSetFpscr mask v s).trapAt = some s.pc ∧
        (hostSetFpscr mask v s).pc = s.pc ∧ (hostSetFpscr mask v s).pending = false ∧
        (hostSetFpscr mask v s).fpscr = s.fpscr ∧ (hostSetFpscr mask v s).fpr = s.fpr)
end

