-- ==== Sys2Proof/Laws/Bits.lean ====
section
/-! SUPPORT. Bits of a doubleword after its bits are set, and the FPSCR after `Commit`, bit by bit. -/

namespace Sys2Proof.Machine

/-- A bit reads as what was last written to it. -/
theorem bitAt_setBitAt (v : BitVec 64) (i j : Nat) (b : Bool) (hi : i < 64) (hj : j < 64) :
    bitAt (setBitAt v i b) j = if i = j then b else bitAt v j := by
  have key : (1#64 <<< (63 - i)).getMsbD j = decide (i = j) := by
    simp only [BitVec.getMsbD, BitVec.getLsbD_shiftLeft, BitVec.getLsbD_one]
    by_cases h : i = j
    · subst h
      simp [show i < 64 from hi]
      omega
    · simp [hj, h]
      omega
  unfold bitAt setBitAt
  cases b
  · simp only [Bool.false_eq_true, if_false, BitVec.getMsbD_and, BitVec.getMsbD_not, key]
    by_cases h : i = j <;> simp [h, hj]
  · simp only [if_true, BitVec.getMsbD_or, key]
    by_cases h : i = j <;> simp [h]

/-- A bit below or beyond a field that is written is as before. -/
theorem bitAt_setBits_out (bs : List Bool) (v : BitVec 64) (a j : Nat) (hj : j < 64) (hlen : a + bs.length ≤ 64)
    (h : j < a ∨ a + bs.length ≤ j) : bitAt (setBits v a bs) j = bitAt v j := by
  induction bs generalizing v a with
  | nil => rfl
  | cons b bs ih =>
    simp only [List.length_cons] at hlen h
    rw [setBits, ih _ _ (by omega) (by omega), bitAt_setBitAt _ _ _ _ (by omega) hj, if_neg (by omega)]

/-- A bit of a field that is written reads as the field's bit. -/
theorem bitAt_setBits_in (bs : List Bool) (v : BitVec 64) (a k : Nat) (hlen : a + bs.length ≤ 64) (hk : k < bs.length) :
    bitAt (setBits v a bs) (a + k) = bs[k] := by
  induction bs generalizing v a k with
  | nil => simp at hk
  | cons b bs ih =>
    simp only [List.length_cons] at hlen hk
    rw [setBits]
    cases k with
    | zero =>
      rw [bitAt_setBits_out _ _ _ _ (by omega) (by omega) (by omega),
        bitAt_setBitAt _ _ _ _ (by omega) (by omega)]
      simp
    | succ k =>
      have := ih (setBitAt v a b) (a + 1) k (by omega) (by omega)
      rw [show a + (k + 1) = a + 1 + k by omega, this]
      rfl

/-- Every exception's status bit is in the register. -/
theorem Exc.bit_lt (x : Exc) : x.bit < 64 := by cases x <;> decide

/-- Every exception's status bit is one of the status bits of 10_state.md R33. -/
theorem Exc.bit_mem_statusBits (x : Exc) : x.bit ∈ statusBits := by cases x <;> decide

/-- The status bits after those of a list of exceptions are set. -/
theorem bitAt_setExcBits (exc : List Exc) (v : BitVec 64) (j : Nat) (hj : j < 64) :
    bitAt (setExcBits exc v) j = (bitAt v j || exc.any (fun x => x.bit == j)) := by
  unfold setExcBits
  induction exc generalizing v with
  | nil => simp
  | cons x xs ih =>
    rw [List.foldl_cons, ih, bitAt_setBitAt _ _ _ _ x.bit_lt hj, List.any_cons]
    by_cases h : x.bit = j
    · simp [h]
    · simp [h, beq_eq_false_iff_ne.mpr h]

/-- The bits after FI is written: FI, and XX ORed with it. -/
theorem bitAt_writeFI (fi : Option Bool) (v : BitVec 64) (j : Nat) (hj : j < 64) :
    bitAt (writeFI fi v) j =
      if j = 38 then bitAt v 38 || fi.getD false else if j = 46 then fi.getD (bitAt v 46) else bitAt v j := by
  cases fi with
  | none =>
    by_cases h : j = 38
    · simp [writeFI, h]
    · by_cases h' : j = 46 <;> simp [writeFI, h, h']
  | some b =>
    simp only [writeFI]
    rw [bitAt_setBitAt _ _ _ _ (by omega) hj, bitAt_setBitAt _ _ _ _ (by omega) hj]
    by_cases h : j = 38
    · simp [h]
    · by_cases h' : j = 46
      · simp [h']
      · simp [h, h', Ne.symm h, Ne.symm h']

/-- The bits after FR is written. -/
theorem bitAt_writeFR (fr : Option Bool) (v : BitVec 64) (j : Nat) (hj : j < 64) :
    bitAt (writeFR fr v) j = if j = 45 then fr.getD (bitAt v 45) else bitAt v j := by
  cases fr with
  | none => by_cases h : j = 45 <;> simp [writeFR, h]
  | some b =>
    simp only [writeFR]
    rw [bitAt_setBitAt _ _ _ _ (by omega) hj]
    by_cases h : j = 45
    · simp [h]
    · simp [h, Ne.symm h]

/-- A bit outside FPRF is as before. -/
theorem bitAt_writeFPRF_out (x : Option (BitVec 5)) (v : BitVec 64) (j : Nat) (hj : j < 64) (h : j < 47 ∨ 52 ≤ j) :
    bitAt (writeFPRF x v) j = bitAt v j := by
  cases x with
  | none => rfl
  | some x => exact bitAt_setBits_out (bitsOf5 x) v 47 j hj (by simp [bitsOf5]) (by simpa [bitsOf5] using h)

/-- A bit outside FPCC is as before. -/
theorem bitAt_writeFPCC_out (x : Option (BitVec 4)) (v : BitVec 64) (j : Nat) (hj : j < 64) (h : j < 48 ∨ 52 ≤ j) :
    bitAt (writeFPCC x v) j = bitAt v j := by
  cases x with
  | none => rfl
  | some x => exact bitAt_setBits_out (bitsOf4 x) v 48 j hj (by simp [bitsOf4]) (by simpa [bitsOf4] using h)

/-- The bits of FPRF after it is written. -/
theorem bitAt_writeFPRF_some (x : BitVec 5) (v : BitVec 64) (k : Nat) (hk : k < 5) :
    bitAt (writeFPRF (some x) v) (47 + k) = bitAt x k := by
  have := bitAt_setBits_in (bitsOf5 x) v 47 k (by simp [bitsOf5]) (by simpa [bitsOf5] using hk)
  rw [writeFPRF, this]
  match k, hk with
  | 0, _ | 1, _ | 2, _ | 3, _ | 4, _ => rfl

/-- The bits of FPCC after it is written. -/
theorem bitAt_writeFPCC_some (x : BitVec 4) (v : BitVec 64) (k : Nat) (hk : k < 4) :
    bitAt (writeFPCC (some x) v) (48 + k) = bitAt x k := by
  have := bitAt_setBits_in (bitsOf4 x) v 48 k (by simp [bitsOf4]) (by simpa [bitsOf4] using hk)
  rw [writeFPCC, this]
  match k, hk with
  | 0, _ | 1, _ | 2, _ | 3, _ => rfl

/-- A bit that is not FX is as before when FX is updated. -/
theorem bitAt_writeFX_out (old v : BitVec 64) (j : Nat) (hj : j < 64) (h : j ≠ 32) :
    bitAt (writeFX old v) j = bitAt v j := by
  unfold writeFX
  split
  · rw [bitAt_setBitAt _ _ _ _ (by omega) hj, if_neg (Ne.symm h)]
  · rfl

/-- FX after it is updated. -/
theorem bitAt_writeFX (old v : BitVec 64) :
    bitAt (writeFX old v) 32 = (bitAt v 32 || statusBits.any (fun i => bitAt v i && !bitAt old i)) := by
  unfold writeFX
  split
  · next h => rw [bitAt_setBitAt _ _ _ _ (by omega) (by omega), h]; simp
  · next h => simp only [Bool.not_eq_true] at h; rw [h, Bool.or_false]

/-- A bit that is neither FEX nor VX is as before when they are recomputed. -/
theorem bitAt_recomputeSummaries_out (v : BitVec 64) (j : Nat) (hj : j < 64) (h : j ≠ 33 ∧ j ≠ 34) :
    bitAt (recomputeSummaries v) j = bitAt v j := by
  unfold recomputeSummaries
  rw [bitAt_setBitAt _ _ _ _ (by omega) hj, bitAt_setBitAt _ _ _ _ (by omega) hj, if_neg (Ne.symm h.1),
    if_neg (Ne.symm h.2)]

/-- VX and FEX after they are recomputed. -/
theorem bitAt_recomputeSummaries (v : BitVec 64) :
    bitAt (recomputeSummaries v) 34 = vxOf v ∧ bitAt (recomputeSummaries v) 33 = fexOf v := by
  unfold recomputeSummaries
  constructor
  · rw [bitAt_setBitAt _ _ _ _ (by omega) (by omega), bitAt_setBitAt _ _ _ _ (by omega) (by omega)]; rfl
  · rw [bitAt_setBitAt _ _ _ _ (by omega) (by omega)]; rfl

/-- VX's definition reads none of the summary bits. -/
theorem vxOf_congr {v w : BitVec 64} (h : ∀ j ∈ invalidBits, bitAt v j = bitAt w j) : vxOf v = vxOf w := by
  simp only [invalidBits, List.mem_cons, List.not_mem_nil, or_false, forall_eq_or_imp, forall_eq] at h
  simp only [vxOf, invalidBits, List.any_cons, List.any_nil, h]

/-- FEX's definition reads none of the summary bits. -/
theorem fexOf_congr {v w : BitVec 64} (h : ∀ j ∈ statusBits, bitAt v j = bitAt w j)
    (he : ∀ j, 56 ≤ j → j ≤ 60 → bitAt v j = bitAt w j) : fexOf v = fexOf w := by
  have hx : vxOf v = vxOf w := vxOf_congr (fun j hj => h j (List.mem_append_right _ hj))
  have h35 := h 35 (by decide)
  have h36 := h 36 (by decide)
  have h37 := h 37 (by decide)
  have h38 := h 38 (by decide)
  simp only [fexOf, hx, h35, h36, h37, h38, he 56 (by omega) (by omega), he 57 (by omega) (by omega),
    he 58 (by omega) (by omega), he 59 (by omega) (by omega), he 60 (by omega) (by omega)]

/-- Recomputing VX and FEX makes them what they are of the new register. -/
theorem summaries_recomputed (v : BitVec 64) :
    bitAt (recomputeSummaries v) 34 = vxOf (recomputeSummaries v) ∧
      bitAt (recomputeSummaries v) 33 = fexOf (recomputeSummaries v) := by
  have hs : ∀ j ∈ statusBits, bitAt (recomputeSummaries v) j = bitAt v j := by
    intro j hj
    have : j < 64 ∧ j ≠ 33 ∧ j ≠ 34 := by
      revert hj j
      decide
    exact bitAt_recomputeSummaries_out v j this.1 this.2
  have he : ∀ j, 56 ≤ j → j ≤ 60 → bitAt (recomputeSummaries v) j = bitAt v j := fun j h1 h2 =>
    bitAt_recomputeSummaries_out v j (by omega) (by omega)
  rw [(bitAt_recomputeSummaries v).1, (bitAt_recomputeSummaries v).2]
  exact ⟨(vxOf_congr (fun j hj => hs j (List.mem_append_right _ hj))).symm, (fexOf_congr hs he).symm⟩

/-- A bit of the FPSCR that no clause of `Commit` names is as before (41_dfp_execution_model.md R205). -/
theorem bitAt_commitFpscr_kept (c : Commit) (v : BitVec 64) (j : Nat) (hj : j < 64)
    (hsum : j ≠ 32 ∧ j ≠ 33 ∧ j ≠ 34) (hexc : c.exc.any (fun x => x.bit == j) = false)
    (hfi : c.fi = none ∨ (j ≠ 38 ∧ j ≠ 46)) (hfr : c.fr = none ∨ j ≠ 45)
    (hfprf : c.fprf = none ∨ j < 47 ∨ 52 ≤ j) (hfpcc : c.fpcc = none ∨ j < 48 ∨ 52 ≤ j) :
    bitAt (commitFpscr c v) j = bitAt v j := by
  unfold commitFpscr
  rw [bitAt_recomputeSummaries_out _ _ hj ⟨hsum.2.1, hsum.2.2⟩, bitAt_writeFX_out _ _ _ hj hsum.1]
  have h1 : ∀ u, bitAt (writeFPCC c.fpcc u) j = bitAt u j := fun u => by
    rcases hfpcc with h | h
    · rw [h]; rfl
    · exact bitAt_writeFPCC_out _ _ _ hj h
  have h2 : ∀ u, bitAt (writeFPRF c.fprf u) j = bitAt u j := fun u => by
    rcases hfprf with h | h
    · rw [h]; rfl
    · exact bitAt_writeFPRF_out _ _ _ hj h
  have h3 : ∀ u, bitAt (writeFR c.fr u) j = bitAt u j := fun u => by
    rcases hfr with h | h
    · rw [h]; rfl
    · rw [bitAt_writeFR _ _ _ hj, if_neg h]
  have h4 : ∀ u, bitAt (writeFI c.fi u) j = bitAt u j := fun u => by
    rcases hfi with h | h
    · rw [h]; rfl
    · rw [bitAt_writeFI _ _ _ hj, if_neg h.1, if_neg h.2]
  rw [h1, h2, h3, h4, bitAt_setExcBits _ _ _ hj, hexc, Bool.or_false]

/-- A status bit after `Commit`: set by an exception, by FI for XX, or as before (41_dfp_execution_model.md R205). -/
theorem bitAt_commitFpscr_status (c : Commit) (v : BitVec 64) (j : Nat) (hj : j ∈ statusBits) :
    bitAt (commitFpscr c v) j =
      (bitAt v j || c.exc.any (fun x => x.bit == j) || (j == 38 && c.fi.getD false)) := by
  have hb : j < 64 ∧ (j < 39 ∨ (39 ≤ j ∧ j < 45) ∨ 52 < j) ∧ 34 < j := by
    revert hj j
    decide
  unfold commitFpscr
  rw [bitAt_recomputeSummaries_out _ _ hb.1 (by omega), bitAt_writeFX_out _ _ _ hb.1 (by omega),
    bitAt_writeFPCC_out _ _ _ hb.1 (by omega), bitAt_writeFPRF_out _ _ _ hb.1 (by omega), bitAt_writeFR _ _ _ hb.1,
    if_neg (by omega), bitAt_writeFI _ _ _ hb.1]
  by_cases h : j = 38
  · simp [h, bitAt_setExcBits]
  · rw [if_neg h, if_neg (by omega), bitAt_setExcBits _ _ _ hb.1]
    simp [h]

end Sys2Proof.Machine
end

