-- ==== Sys2Proof/Laws/State.lean ====
section
/-! SUPPORT. One lemma per field per update of the state, and reading a register after writing one. -/

namespace Sys2Proof.Machine

variable (s : State)

/-! ### `setFpr` -/

@[simp] theorem setFpr_fpr (r : FReg) (v : Doubleword) : (s.setFpr r v).fpr = s.fpr.set r v := rfl

@[simp] theorem setFpr_fpscr (r : FReg) (v : Doubleword) : (s.setFpr r v).fpscr = s.fpscr := rfl

@[simp] theorem setFpr_cr (r : FReg) (v : Doubleword) : (s.setFpr r v).cr = s.cr := rfl

@[simp] theorem setFpr_feMode (r : FReg) (v : Doubleword) : (s.setFpr r v).feMode = s.feMode := rfl

@[simp] theorem setFpr_pc (r : FReg) (v : Doubleword) : (s.setFpr r v).pc = s.pc := rfl

@[simp] theorem setFpr_pending (r : FReg) (v : Doubleword) : (s.setFpr r v).pending = s.pending := rfl

@[simp] theorem setFpr_trapAt (r : FReg) (v : Doubleword) : (s.setFpr r v).trapAt = s.trapAt := rfl

@[simp] theorem setFpr_mem (r : FReg) (v : Doubleword) : (s.setFpr r v).mem = s.mem := rfl

@[simp] theorem setFpr_insnBigEndian (r : FReg) (v : Doubleword) : (s.setFpr r v).insnBigEndian = s.insnBigEndian := rfl

@[simp] theorem setFpr_pendingFprs (r : FReg) (v : Doubleword) : (s.setFpr r v).pendingFprs = s.pendingFprs := rfl

@[simp] theorem setFpr_pendingFpscr (r : FReg) (v : Doubleword) : (s.setFpr r v).pendingFpscr = s.pendingFpscr := rfl

@[simp] theorem setFpr_freeCount (r : FReg) (v : Doubleword) : (s.setFpr r v).freeCount = s.freeCount := rfl

/-! ### `setCr` -/

@[simp] theorem setCr_fpr (f : CRField) (v : BitVec 4) : (s.setCr f v).fpr = s.fpr := rfl

@[simp] theorem setCr_fpscr (f : CRField) (v : BitVec 4) : (s.setCr f v).fpscr = s.fpscr := rfl

@[simp] theorem setCr_cr (f : CRField) (v : BitVec 4) : (s.setCr f v).cr = s.cr.set f v := rfl

@[simp] theorem setCr_feMode (f : CRField) (v : BitVec 4) : (s.setCr f v).feMode = s.feMode := rfl

@[simp] theorem setCr_pc (f : CRField) (v : BitVec 4) : (s.setCr f v).pc = s.pc := rfl

@[simp] theorem setCr_pending (f : CRField) (v : BitVec 4) : (s.setCr f v).pending = s.pending := rfl

@[simp] theorem setCr_trapAt (f : CRField) (v : BitVec 4) : (s.setCr f v).trapAt = s.trapAt := rfl

@[simp] theorem setCr_mem (f : CRField) (v : BitVec 4) : (s.setCr f v).mem = s.mem := rfl

@[simp] theorem setCr_insnBigEndian (f : CRField) (v : BitVec 4) : (s.setCr f v).insnBigEndian = s.insnBigEndian := rfl

@[simp] theorem setCr_pendingFprs (f : CRField) (v : BitVec 4) : (s.setCr f v).pendingFprs = s.pendingFprs := rfl

@[simp] theorem setCr_pendingFpscr (f : CRField) (v : BitVec 4) : (s.setCr f v).pendingFpscr = s.pendingFpscr := rfl

@[simp] theorem setCr_freeCount (f : CRField) (v : BitVec 4) : (s.setCr f v).freeCount = s.freeCount := rfl

/-! ### `setFpscr` -/

@[simp] theorem setFpscr_fpr (v : BitVec 64) : (s.setFpscr v).fpr = s.fpr := rfl

@[simp] theorem setFpscr_fpscr (v : BitVec 64) : (s.setFpscr v).fpscr = v := rfl

@[simp] theorem setFpscr_cr (v : BitVec 64) : (s.setFpscr v).cr = s.cr := rfl

@[simp] theorem setFpscr_feMode (v : BitVec 64) : (s.setFpscr v).feMode = s.feMode := rfl

@[simp] theorem setFpscr_pc (v : BitVec 64) : (s.setFpscr v).pc = s.pc := rfl

@[simp] theorem setFpscr_pending (v : BitVec 64) : (s.setFpscr v).pending = s.pending := rfl

@[simp] theorem setFpscr_trapAt (v : BitVec 64) : (s.setFpscr v).trapAt = s.trapAt := rfl

@[simp] theorem setFpscr_mem (v : BitVec 64) : (s.setFpscr v).mem = s.mem := rfl

@[simp] theorem setFpscr_insnBigEndian (v : BitVec 64) : (s.setFpscr v).insnBigEndian = s.insnBigEndian := rfl

@[simp] theorem setFpscr_pendingFprs (v : BitVec 64) : (s.setFpscr v).pendingFprs = s.pendingFprs := rfl

@[simp] theorem setFpscr_pendingFpscr (v : BitVec 64) : (s.setFpscr v).pendingFpscr = s.pendingFpscr := rfl

@[simp] theorem setFpscr_freeCount (v : BitVec 64) : (s.setFpscr v).freeCount = s.freeCount := rfl

/-! ### `setPc` -/

@[simp] theorem setPc_fpr (a : Addr) : (s.setPc a).fpr = s.fpr := rfl

@[simp] theorem setPc_fpscr (a : Addr) : (s.setPc a).fpscr = s.fpscr := rfl

@[simp] theorem setPc_cr (a : Addr) : (s.setPc a).cr = s.cr := rfl

@[simp] theorem setPc_feMode (a : Addr) : (s.setPc a).feMode = s.feMode := rfl

@[simp] theorem setPc_pc (a : Addr) : (s.setPc a).pc = a := rfl

@[simp] theorem setPc_pending (a : Addr) : (s.setPc a).pending = s.pending := rfl

@[simp] theorem setPc_trapAt (a : Addr) : (s.setPc a).trapAt = s.trapAt := rfl

@[simp] theorem setPc_mem (a : Addr) : (s.setPc a).mem = s.mem := rfl

@[simp] theorem setPc_insnBigEndian (a : Addr) : (s.setPc a).insnBigEndian = s.insnBigEndian := rfl

@[simp] theorem setPc_pendingFprs (a : Addr) : (s.setPc a).pendingFprs = s.pendingFprs := rfl

@[simp] theorem setPc_pendingFpscr (a : Addr) : (s.setPc a).pendingFpscr = s.pendingFpscr := rfl

@[simp] theorem setPc_freeCount (a : Addr) : (s.setPc a).freeCount = s.freeCount := rfl

/-! ### `drawFree` -/

@[simp] theorem drawFree_fpr : s.drawFree.fpr = s.fpr := rfl

@[simp] theorem drawFree_fpscr : s.drawFree.fpscr = s.fpscr := rfl

@[simp] theorem drawFree_cr : s.drawFree.cr = s.cr := rfl

@[simp] theorem drawFree_feMode : s.drawFree.feMode = s.feMode := rfl

@[simp] theorem drawFree_pc : s.drawFree.pc = s.pc := rfl

@[simp] theorem drawFree_pending : s.drawFree.pending = s.pending := rfl

@[simp] theorem drawFree_trapAt : s.drawFree.trapAt = s.trapAt := rfl

@[simp] theorem drawFree_mem : s.drawFree.mem = s.mem := rfl

@[simp] theorem drawFree_insnBigEndian : s.drawFree.insnBigEndian = s.insnBigEndian := rfl

@[simp] theorem drawFree_pendingFprs : s.drawFree.pendingFprs = s.pendingFprs := rfl

@[simp] theorem drawFree_pendingFpscr : s.drawFree.pendingFpscr = s.pendingFpscr := rfl

@[simp] theorem drawFree_freeCount : s.drawFree.freeCount = s.freeCount + 1 := rfl

/-! ### `takeTrap` -/

@[simp] theorem takeTrap_fpr (a : Addr) : (takeTrap a s).fpr = s.fpr := rfl

@[simp] theorem takeTrap_fpscr (a : Addr) : (takeTrap a s).fpscr = s.fpscr := rfl

@[simp] theorem takeTrap_cr (a : Addr) : (takeTrap a s).cr = s.cr := rfl

@[simp] theorem takeTrap_feMode (a : Addr) : (takeTrap a s).feMode = s.feMode := rfl

@[simp] theorem takeTrap_pc (a : Addr) : (takeTrap a s).pc = s.pc := rfl

@[simp] theorem takeTrap_pending (a : Addr) : (takeTrap a s).pending = false := rfl

@[simp] theorem takeTrap_trapAt (a : Addr) : (takeTrap a s).trapAt = some a := rfl

@[simp] theorem takeTrap_mem (a : Addr) : (takeTrap a s).mem = s.mem := rfl

@[simp] theorem takeTrap_insnBigEndian (a : Addr) : (takeTrap a s).insnBigEndian = s.insnBigEndian := rfl

@[simp] theorem takeTrap_pendingFprs (a : Addr) : (takeTrap a s).pendingFprs = [] := rfl

@[simp] theorem takeTrap_pendingFpscr (a : Addr) : (takeTrap a s).pendingFpscr = 0 := rfl

@[simp] theorem takeTrap_freeCount (a : Addr) : (takeTrap a s).freeCount = s.freeCount := rfl

/-! ### `makePending` -/

@[simp] theorem makePending_fpr (fprs : List FReg) (mask : BitVec 64) : (makePending fprs mask s).fpr = s.fpr := rfl

@[simp] theorem makePending_fpscr (fprs : List FReg) (mask : BitVec 64) : (makePending fprs mask s).fpscr = s.fpscr := rfl

@[simp] theorem makePending_cr (fprs : List FReg) (mask : BitVec 64) : (makePending fprs mask s).cr = s.cr := rfl

@[simp] theorem makePending_feMode (fprs : List FReg) (mask : BitVec 64) : (makePending fprs mask s).feMode = s.feMode := rfl

@[simp] theorem makePending_pc (fprs : List FReg) (mask : BitVec 64) : (makePending fprs mask s).pc = s.pc := rfl

@[simp] theorem makePending_pending (fprs : List FReg) (mask : BitVec 64) : (makePending fprs mask s).pending = true := rfl

@[simp] theorem makePending_trapAt (fprs : List FReg) (mask : BitVec 64) : (makePending fprs mask s).trapAt = s.trapAt := rfl

@[simp] theorem makePending_mem (fprs : List FReg) (mask : BitVec 64) : (makePending fprs mask s).mem = s.mem := rfl

@[simp] theorem makePending_insnBigEndian (fprs : List FReg) (mask : BitVec 64) : (makePending fprs mask s).insnBigEndian = s.insnBigEndian := rfl

@[simp] theorem makePending_pendingFprs (fprs : List FReg) (mask : BitVec 64) : (makePending fprs mask s).pendingFprs = fprs ++ s.pendingFprs := rfl

@[simp] theorem makePending_pendingFpscr (fprs : List FReg) (mask : BitVec 64) : (makePending fprs mask s).pendingFpscr = mask ||| s.pendingFpscr := rfl

@[simp] theorem makePending_freeCount (fprs : List FReg) (mask : BitVec 64) : (makePending fprs mask s).freeCount = s.freeCount := rfl

/-! ### Lists of register writes, and the optional CR writes -/

theorem writeFprs_cons (w : FReg × Doubleword) (ws : List (FReg × Doubleword)) :
    s.writeFprs (w :: ws) = (s.setFpr w.1 w.2).writeFprs ws := rfl

@[simp] theorem writeFprs_fpscr (ws : List (FReg × Doubleword)) : (s.writeFprs ws).fpscr = s.fpscr := by
  induction ws generalizing s with
  | nil => rfl
  | cons w ws ih => rw [writeFprs_cons, ih, setFpr_fpscr]

@[simp] theorem writeFprs_cr (ws : List (FReg × Doubleword)) : (s.writeFprs ws).cr = s.cr := by
  induction ws generalizing s with
  | nil => rfl
  | cons w ws ih => rw [writeFprs_cons, ih, setFpr_cr]

@[simp] theorem writeFprs_feMode (ws : List (FReg × Doubleword)) : (s.writeFprs ws).feMode = s.feMode := by
  induction ws generalizing s with
  | nil => rfl
  | cons w ws ih => rw [writeFprs_cons, ih, setFpr_feMode]

@[simp] theorem writeFprs_pc (ws : List (FReg × Doubleword)) : (s.writeFprs ws).pc = s.pc := by
  induction ws generalizing s with
  | nil => rfl
  | cons w ws ih => rw [writeFprs_cons, ih, setFpr_pc]

@[simp] theorem writeFprs_pending (ws : List (FReg × Doubleword)) : (s.writeFprs ws).pending = s.pending := by
  induction ws generalizing s with
  | nil => rfl
  | cons w ws ih => rw [writeFprs_cons, ih, setFpr_pending]

@[simp] theorem writeFprs_trapAt (ws : List (FReg × Doubleword)) : (s.writeFprs ws).trapAt = s.trapAt := by
  induction ws generalizing s with
  | nil => rfl
  | cons w ws ih => rw [writeFprs_cons, ih, setFpr_trapAt]

@[simp] theorem writeFprs_mem (ws : List (FReg × Doubleword)) : (s.writeFprs ws).mem = s.mem := by
  induction ws generalizing s with
  | nil => rfl
  | cons w ws ih => rw [writeFprs_cons, ih, setFpr_mem]

@[simp] theorem writeFprs_insnBigEndian (ws : List (FReg × Doubleword)) : (s.writeFprs ws).insnBigEndian = s.insnBigEndian := by
  induction ws generalizing s with
  | nil => rfl
  | cons w ws ih => rw [writeFprs_cons, ih, setFpr_insnBigEndian]

@[simp] theorem writeFprs_pendingFprs (ws : List (FReg × Doubleword)) : (s.writeFprs ws).pendingFprs = s.pendingFprs := by
  induction ws generalizing s with
  | nil => rfl
  | cons w ws ih => rw [writeFprs_cons, ih, setFpr_pendingFprs]

@[simp] theorem writeFprs_pendingFpscr (ws : List (FReg × Doubleword)) : (s.writeFprs ws).pendingFpscr = s.pendingFpscr := by
  induction ws generalizing s with
  | nil => rfl
  | cons w ws ih => rw [writeFprs_cons, ih, setFpr_pendingFpscr]

@[simp] theorem writeFprs_freeCount (ws : List (FReg × Doubleword)) : (s.writeFprs ws).freeCount = s.freeCount := by
  induction ws generalizing s with
  | nil => rfl
  | cons w ws ih => rw [writeFprs_cons, ih, setFpr_freeCount]

@[simp] theorem writeCrBF_fpr (w : Option (CRField × BitVec 4)) : (s.writeCrBF w).fpr = s.fpr := by
  cases w <;> rfl

@[simp] theorem record_fpr (rc : Bool) : (s.record rc).fpr = s.fpr := by
  cases rc <;> rfl

@[simp] theorem writeCrBF_fpscr (w : Option (CRField × BitVec 4)) : (s.writeCrBF w).fpscr = s.fpscr := by
  cases w <;> rfl

@[simp] theorem record_fpscr (rc : Bool) : (s.record rc).fpscr = s.fpscr := by
  cases rc <;> rfl

@[simp] theorem writeCrBF_feMode (w : Option (CRField × BitVec 4)) : (s.writeCrBF w).feMode = s.feMode := by
  cases w <;> rfl

@[simp] theorem record_feMode (rc : Bool) : (s.record rc).feMode = s.feMode := by
  cases rc <;> rfl

@[simp] theorem writeCrBF_pc (w : Option (CRField × BitVec 4)) : (s.writeCrBF w).pc = s.pc := by
  cases w <;> rfl

@[simp] theorem record_pc (rc : Bool) : (s.record rc).pc = s.pc := by
  cases rc <;> rfl

@[simp] theorem writeCrBF_pending (w : Option (CRField × BitVec 4)) : (s.writeCrBF w).pending = s.pending := by
  cases w <;> rfl

@[simp] theorem record_pending (rc : Bool) : (s.record rc).pending = s.pending := by
  cases rc <;> rfl

@[simp] theorem writeCrBF_trapAt (w : Option (CRField × BitVec 4)) : (s.writeCrBF w).trapAt = s.trapAt := by
  cases w <;> rfl

@[simp] theorem record_trapAt (rc : Bool) : (s.record rc).trapAt = s.trapAt := by
  cases rc <;> rfl

@[simp] theorem writeCrBF_mem (w : Option (CRField × BitVec 4)) : (s.writeCrBF w).mem = s.mem := by
  cases w <;> rfl

@[simp] theorem record_mem (rc : Bool) : (s.record rc).mem = s.mem := by
  cases rc <;> rfl

@[simp] theorem writeCrBF_insnBigEndian (w : Option (CRField × BitVec 4)) : (s.writeCrBF w).insnBigEndian = s.insnBigEndian := by
  cases w <;> rfl

@[simp] theorem record_insnBigEndian (rc : Bool) : (s.record rc).insnBigEndian = s.insnBigEndian := by
  cases rc <;> rfl

@[simp] theorem writeCrBF_pendingFprs (w : Option (CRField × BitVec 4)) : (s.writeCrBF w).pendingFprs = s.pendingFprs := by
  cases w <;> rfl

@[simp] theorem record_pendingFprs (rc : Bool) : (s.record rc).pendingFprs = s.pendingFprs := by
  cases rc <;> rfl

@[simp] theorem writeCrBF_pendingFpscr (w : Option (CRField × BitVec 4)) : (s.writeCrBF w).pendingFpscr = s.pendingFpscr := by
  cases w <;> rfl

@[simp] theorem record_pendingFpscr (rc : Bool) : (s.record rc).pendingFpscr = s.pendingFpscr := by
  cases rc <;> rfl

@[simp] theorem writeCrBF_freeCount (w : Option (CRField × BitVec 4)) : (s.writeCrBF w).freeCount = s.freeCount := by
  cases w <;> rfl

@[simp] theorem record_freeCount (rc : Bool) : (s.record rc).freeCount = s.freeCount := by
  cases rc <;> rfl

/-! ### Registers -/

/-- A register reads as what was last written to it. -/
theorem readFpr_setFpr (r q : FReg) (v : Doubleword) : readFpr (s.setFpr r v) q = if r = q then v else readFpr s q := by
  simp only [readFpr, setFpr_fpr, Fin.getElem_fin, Vector.getElem_set, Fin.ext_iff]

@[simp] theorem readFpr_setFpr_same (r : FReg) (v : Doubleword) : readFpr (s.setFpr r v) r = v := by
  simp [readFpr_setFpr]

theorem readFpr_setFpr_ne {r q : FReg} (v : Doubleword) (h : r ≠ q) : readFpr (s.setFpr r v) q = readFpr s q := by
  simp [readFpr_setFpr, h]

/-- A register no write of a list names is as before. -/
theorem readFpr_writeFprs_not_mem (ws : List (FReg × Doubleword)) (q : FReg) (h : q ∉ ws.map Prod.fst) :
    readFpr (s.writeFprs ws) q = readFpr s q := by
  induction ws generalizing s with
  | nil => rfl
  | cons w ws ih =>
    simp only [List.map_cons, List.mem_cons, not_or] at h
    rw [writeFprs_cons, ih _ h.2, readFpr_setFpr_ne _ _ (Ne.symm h.1)]

/-- A CR field reads as what was last written to it. -/
theorem cr_setCr (f g : CRField) (v : BitVec 4) : (s.setCr f v).cr[g] = if f = g then v else s.cr[g] := by
  simp only [setCr_cr, Fin.getElem_fin, Vector.getElem_set, Fin.ext_iff]

/-- The odd register of an even one is another one (10_state.md R22). -/
theorem oddOf_val {r : FReg} (h : r.isEven = true) : (oddOf r).val = r.val + 1 := by
  have h2 : r.val % 2 = 0 := by simpa [FReg.isEven] using h
  have := r.isLt
  simp only [oddOf, Fin.val_add]
  show (r.val + 1) % 32 = r.val + 1
  omega

theorem oddOf_ne {r : FReg} (h : r.isEven = true) : oddOf r ≠ r := by
  intro e
  have := oddOf_val h
  rw [e] at this
  omega

end Sys2Proof.Machine
end

