-- ==== Sys2Proof/Laws/Ops.lean ====
section
/-! SUPPORT. What raising an exception and retiring an instruction can do, each said once. -/

namespace Sys2Proof.Machine

/-! ### Raising (60_exceptions.md R377, R378) -/

/-- What raising an enabled exception can do: ignore it, take the trap at the instruction, or make it pending. -/
theorem raiseEnabled_cases (fprs : List FReg) (mask : BitVec 64) (cont : Addr) (n : Nat) (s : State) :
    (excModeOf s.feMode = .ignoreExceptions ∧ raiseEnabled fprs mask cont n s = s.setPc cont) ∨
    (excModeOf s.feMode ≠ .ignoreExceptions ∧ raiseEnabled fprs mask cont n s = takeTrap s.pc s) ∨
    ((excModeOf s.feMode = .impreciseNonrecoverable ∨ excModeOf s.feMode = .impreciseRecoverable) ∧
      raiseEnabled fprs mask cont n s = (makePending fprs mask s).setPc cont) := by
  unfold raiseEnabled
  cases h : excModeOf s.feMode
  · exact .inl ⟨rfl, rfl⟩
  · by_cases hc : Config.trapAtOnce n = true
    · exact .inr (.inl ⟨by simp, by simp [hc]⟩)
    · exact .inr (.inr ⟨.inl rfl, by simp [hc]⟩)
  · by_cases hc : Config.trapAtOnce n = true
    · exact .inr (.inl ⟨by simp, by simp [hc]⟩)
    · exact .inr (.inr ⟨.inr rfl, by simp [hc]⟩)
  · exact .inr (.inl ⟨by simp, rfl⟩)

/-- In Ignore Exceptions Mode the handler is not invoked (60_exceptions.md R375). -/
theorem raiseEnabled_ignore (fprs : List FReg) (mask : BitVec 64) (cont : Addr) (n : Nat) (s : State)
    (h : excModeOf s.feMode = .ignoreExceptions) : raiseEnabled fprs mask cont n s = s.setPc cont := by
  simp only [raiseEnabled, h]

/-- In Precise Mode the handler is invoked at the instruction (60_exceptions.md R375). -/
theorem raiseEnabled_precise (fprs : List FReg) (mask : BitVec 64) (cont : Addr) (n : Nat) (s : State)
    (h : excModeOf s.feMode = .precise) : raiseEnabled fprs mask cont n s = takeTrap s.pc s := by
  simp only [raiseEnabled, h]

section
variable (fprs : List FReg) (mask : BitVec 64) (cont : Addr) (n : Nat) (s : State)

/-- Raising writes no register (60_exceptions.md R377, R382). -/
@[simp] theorem raiseEnabled_fpr : (raiseEnabled fprs mask cont n s).fpr = s.fpr := by
  rcases raiseEnabled_cases fprs mask cont n s with ⟨-, h⟩ | ⟨-, h⟩ | ⟨-, h⟩ <;> rw [h] <;> rfl

@[simp] theorem raiseEnabled_fpscr : (raiseEnabled fprs mask cont n s).fpscr = s.fpscr := by
  rcases raiseEnabled_cases fprs mask cont n s with ⟨-, h⟩ | ⟨-, h⟩ | ⟨-, h⟩ <;> rw [h] <;> rfl

@[simp] theorem raiseEnabled_cr : (raiseEnabled fprs mask cont n s).cr = s.cr := by
  rcases raiseEnabled_cases fprs mask cont n s with ⟨-, h⟩ | ⟨-, h⟩ | ⟨-, h⟩ <;> rw [h] <;> rfl

@[simp] theorem raiseEnabled_feMode : (raiseEnabled fprs mask cont n s).feMode = s.feMode := by
  rcases raiseEnabled_cases fprs mask cont n s with ⟨-, h⟩ | ⟨-, h⟩ | ⟨-, h⟩ <;> rw [h] <;> rfl

@[simp] theorem raiseEnabled_mem : (raiseEnabled fprs mask cont n s).mem = s.mem := by
  rcases raiseEnabled_cases fprs mask cont n s with ⟨-, h⟩ | ⟨-, h⟩ | ⟨-, h⟩ <;> rw [h] <;> rfl

@[simp] theorem raiseEnabled_insnBigEndian :
    (raiseEnabled fprs mask cont n s).insnBigEndian = s.insnBigEndian := by
  rcases raiseEnabled_cases fprs mask cont n s with ⟨-, h⟩ | ⟨-, h⟩ | ⟨-, h⟩ <;> rw [h] <;> rfl

@[simp] theorem raiseEnabled_freeCount : (raiseEnabled fprs mask cont n s).freeCount = s.freeCount := by
  rcases raiseEnabled_cases fprs mask cont n s with ⟨-, h⟩ | ⟨-, h⟩ | ⟨-, h⟩ <;> rw [h] <;> rfl
end

/-! ### The effect of an instruction (41_dfp_execution_model.md R209) -/

section
variable (e : Effect) (s : State)

@[simp] theorem applyEffect_fpr : (applyEffect e s).fpr = (s.writeFprs e.fprs).fpr := by simp [applyEffect]
@[simp] theorem applyEffect_fpscr : (applyEffect e s).fpscr = e.fpscrAfter s.fpscr := by simp [applyEffect]
@[simp] theorem applyEffect_feMode : (applyEffect e s).feMode = s.feMode := by simp [applyEffect]
@[simp] theorem applyEffect_pc : (applyEffect e s).pc = s.pc := by simp [applyEffect]
@[simp] theorem applyEffect_pending : (applyEffect e s).pending = s.pending := by simp [applyEffect]
@[simp] theorem applyEffect_trapAt : (applyEffect e s).trapAt = s.trapAt := by simp [applyEffect]
@[simp] theorem applyEffect_mem : (applyEffect e s).mem = s.mem := by simp [applyEffect]
@[simp] theorem applyEffect_insnBigEndian : (applyEffect e s).insnBigEndian = s.insnBigEndian := by simp [applyEffect]
@[simp] theorem applyEffect_pendingFprs : (applyEffect e s).pendingFprs = s.pendingFprs := by simp [applyEffect]
@[simp] theorem applyEffect_pendingFpscr : (applyEffect e s).pendingFpscr = s.pendingFpscr := by simp [applyEffect]
@[simp] theorem applyEffect_freeCount : (applyEffect e s).freeCount = s.freeCount + 1 := by simp [applyEffect]

/-- The CR after an effect: CR[BF] has the code, then CR[1] the record bits (R208). -/
theorem applyEffect_cr :
    (applyEffect e s).cr =
      (((s.setFpscr (e.fpscrAfter s.fpscr)).writeCrBF e.crBF).record e.rc).cr := by
  have key : ∀ (a b : State) (w : Option (CRField × BitVec 4)) (rc : Bool), a.fpscr = b.fpscr → a.cr = b.cr →
      ((a.writeCrBF w).record rc).cr = ((b.writeCrBF w).record rc).cr := by
    intro a b w rc hf hc
    cases w <;> cases rc <;> simp [State.writeCrBF, State.record, hf, hc]
  exact key _ _ _ _ rfl (by simp)

/-! ### Retiring -/

@[simp] theorem finish_fpr : (finish e s).fpr = (s.writeFprs e.fprs).fpr := by
  unfold finish; dsimp only; split <;> simp
@[simp] theorem finish_fpscr : (finish e s).fpscr = e.fpscrAfter s.fpscr := by
  unfold finish; dsimp only; split <;> simp
@[simp] theorem finish_cr : (finish e s).cr = (applyEffect e s).cr := by
  unfold finish; dsimp only; split <;> simp
@[simp] theorem finish_feMode : (finish e s).feMode = s.feMode := by
  unfold finish; dsimp only; split <;> simp
@[simp] theorem finish_mem : (finish e s).mem = s.mem := by
  unfold finish; dsimp only; split <;> simp
@[simp] theorem finish_insnBigEndian : (finish e s).insnBigEndian = s.insnBigEndian := by
  unfold finish; dsimp only; split <;> simp
@[simp] theorem finish_freeCount : (finish e s).freeCount = s.freeCount + 1 := by
  unfold finish; dsimp only; split <;> simp

/-- Everything retiring an instruction can do with pc and the handler: complete, trap at the instruction, or complete with
the exception pending. -/
theorem finish_cases :
    ((e.raised s.fpscr = [] ∨ excModeOf s.feMode = .ignoreExceptions) ∧
      finish e s = (applyEffect e s).setPc (s.pc + 4)) ∨
    (e.raised s.fpscr ≠ [] ∧ excModeOf s.feMode ≠ .ignoreExceptions ∧
      finish e s = takeTrap s.pc (applyEffect e s)) ∨
    (e.raised s.fpscr ≠ [] ∧
      (excModeOf s.feMode = .impreciseNonrecoverable ∨ excModeOf s.feMode = .impreciseRecoverable) ∧
      finish e s =
        (makePending (e.fprs.map Prod.fst) e.mask (applyEffect e s)).setPc (s.pc + 4)) := by
  unfold finish nextPc
  by_cases hr : e.raised s.fpscr = []
  · exact .inl ⟨.inl hr, by simp [hr]⟩
  · have hr' : (e.raised s.fpscr).isEmpty = false := by simpa using hr
    simp only [hr', Bool.false_eq_true, if_false]
    rcases raiseEnabled_cases (e.fprs.map Prod.fst) e.mask (s.pc + 4) s.freeCount (applyEffect e s) with
      ⟨hm, h⟩ | ⟨hm, h⟩ | ⟨hm, h⟩
    · exact .inl ⟨.inr (by simpa using hm), h⟩
    · exact .inr (.inl ⟨hr, by simpa using hm, by rw [h, applyEffect_pc]⟩)
    · exact .inr (.inr ⟨hr, by simpa using hm, h⟩)

/-- An instruction that raises nothing, or runs in Ignore Exceptions Mode, completes (10_state.md R50). -/
theorem finish_completed (h : e.raised s.fpscr = [] ∨ excModeOf s.feMode = .ignoreExceptions) :
    Completed s (finish e s) := by
  rcases finish_cases e s with ⟨-, hf⟩ | ⟨h1, h2, -⟩ | ⟨h1, h2, -⟩
  · rw [hf]; exact ⟨rfl, by simp, by simp, by simp, by simp, by simp⟩
  · exact absurd h (by simp [h1, h2])
  · rcases h2 with h2 | h2 <;> exact absurd h (by simp [h1, h2])

/-- A register that an effect does not write is as before. -/
theorem readFpr_finish_kept (q : FReg) (h : q ∉ e.fprs.map Prod.fst) : readFpr (finish e s) q = readFpr s q := by
  simp only [readFpr, finish_fpr]
  exact readFpr_writeFprs_not_mem s e.fprs q h

/-- The one register a single write names reads as the value written. -/
theorem readFpr_finish_single (r : FReg) (v : Doubleword) (h : e.fprs = [(r, v)]) : readFpr (finish e s) r = v := by
  simp only [readFpr, finish_fpr, h]
  exact readFpr_setFpr_same s r v

/-- What a retired instruction is. -/
theorem retire_eq : retire e s = .next (finish e s) := rfl
end

/-- A quad instruction with even pairs runs; with an odd one it is refused (30_encoding.md R103). -/
theorem onPairs_eq (rs : List FReg) (a : Answer) :
    onPairs rs a = if pairsEven rs = true then a else .refused .invalidForm := rfl

end Sys2Proof.Machine
end

