-- ==== Sys2Proof/Laws/Exec.lean ====
section
/-! SUPPORT. Every meaning is one effect, retired: the effect of each instruction, and what `exec` can answer, said once. -/

namespace Sys2Proof.Machine

/-- The effect of an instruction in a state (41_dfp_execution_model.md R209). -/
def effectOf (i : Instr) (s : State) : Effect :=
  match i with
  | .dadd frt fra frb rc => addEffect .dfp64 frt fra frb rc s
  | .daddq frt fra frb rc => addEffect .dfp128 frt fra frb rc s
  | .dsub frt fra frb rc => subEffect .dfp64 frt fra frb rc s
  | .dsubq frt fra frb rc => subEffect .dfp128 frt fra frb rc s
  | .dmul frt fra frb rc => mulEffect .dfp64 frt fra frb rc s
  | .dmulq frt fra frb rc => mulEffect .dfp128 frt fra frb rc s
  | .ddiv frt fra frb rc => divEffect .dfp64 frt fra frb rc s
  | .ddivq frt fra frb rc => divEffect .dfp128 frt fra frb rc s
  | .dcmpu bf fra frb => compareEffect false .dfp64 bf fra frb s
  | .dcmpuq bf fra frb => compareEffect false .dfp128 bf fra frb s
  | .dcmpo bf fra frb => compareEffect true .dfp64 bf fra frb s
  | .dcmpoq bf fra frb => compareEffect true .dfp128 bf fra frb s
  | .dtstdc bf fra mask => testClassEffect .dfp64 bf fra mask s
  | .dtstdcq bf fra mask => testClassEffect .dfp128 bf fra mask s
  | .dtstdg bf fra mask => testGroupEffect .dfp64 bf fra mask s
  | .dtstdgq bf fra mask => testGroupEffect .dfp128 bf fra mask s
  | .dtstex bf fra frb => testExponentEffect .dfp64 bf fra frb s
  | .dtstexq bf fra frb => testExponentEffect .dfp128 bf fra frb s
  | .dtstsf bf fra frb => testSignificanceEffect .dfp64 bf fra frb s
  | .dtstsfq bf fra frb => testSignificanceEffect .dfp128 bf fra frb s
  | .dquai frt te frb rmc rc => quantizeImmediateEffect .dfp64 frt te frb rmc rc s
  | .dquaiq frt te frb rmc rc => quantizeImmediateEffect .dfp128 frt te frb rmc rc s
  | .dqua frt fra frb rmc rc => quantizeEffect .dfp64 frt fra frb rmc rc s
  | .dquaq frt fra frb rmc rc => quantizeEffect .dfp128 frt fra frb rmc rc s
  | .drrnd frt fra frb rmc rc => reroundEffect .dfp64 frt fra frb rmc rc s
  | .drrndq frt fra frb rmc rc => reroundEffect .dfp128 frt fra frb rmc rc s
  | .drintx frt r frb rmc rc => roundToIntEffect .dfp64 frt r frb rmc true rc s
  | .drintxq frt r frb rmc rc => roundToIntEffect .dfp128 frt r frb rmc true rc s
  | .drintn frt r frb rmc rc => roundToIntEffect .dfp64 frt r frb rmc false rc s
  | .drintnq frt r frb rmc rc => roundToIntEffect .dfp128 frt r frb rmc false rc s
  | .dctdp frt frb rc => toDfp64Effect frt frb rc s
  | .dctqpq frt frb rc => toDfp128Effect frt frb rc s
  | .drsp frt frb rc => roundToDfp32Effect frt frb rc s
  | .drdpq frt frb rc => roundToDfp64Effect frt frb rc s
  | .dcffixq frt frb rc => fromFixedEffect frt frb rc s
  | .dctfix frt frb rc => toFixedEffect .dfp64 frt frb rc s
  | .dctfixq frt frb rc => toFixedEffect .dfp128 frt frb rc s
  | .ddedpd frt sp0 sp1 frb rc => decodeDpdEffect .dfp64 frt sp0 sp1 frb rc s
  | .ddedpdq frt sp0 sp1 frb rc => decodeDpdEffect .dfp128 frt sp0 sp1 frb rc s
  | .denbcd frt sgn frb rc => encodeBcdEffect .dfp64 frt sgn frb rc s
  | .denbcdq frt sgn frb rc => encodeBcdEffect .dfp128 frt sgn frb rc s
  | .dxex frt frb rc => extractExponentEffect .dfp64 frt frb rc s
  | .dxexq frt frb rc => extractExponentEffect .dfp128 frt frb rc s
  | .diex frt fra frb rc => insertExponentEffect .dfp64 frt fra frb rc s
  | .diexq frt fra frb rc => insertExponentEffect .dfp128 frt fra frb rc s
  | .dscli frt fra sh rc => shiftEffect .dfp64 true frt fra sh rc s
  | .dscliq frt fra sh rc => shiftEffect .dfp128 true frt fra sh rc s
  | .dscri frt fra sh rc => shiftEffect .dfp64 false frt fra sh rc s
  | .dscriq frt fra sh rc => shiftEffect .dfp128 false frt fra sh rc s

/-- An instruction is refused as an invalid form, or retires its effect (30_encoding.md R103). -/
theorem exec_eq (i : Instr) (s : State) : exec i s = onPairs i.pairFields (retire (effectOf i s) s) := by
  cases i <;> rfl

/-- A well-formed instruction always runs: its meaning answers a next state, its effect retired. -/
theorem exec_wellFormed {i : Instr} (h : i.wellFormed = true) (s : State) : exec i s = .next (finish (effectOf i s) s) := by
  have h' : pairsEven i.pairFields = true := h
  rw [exec_eq, onPairs_eq, if_pos h', retire_eq]

/-- Whatever next state an instruction answers, it is well formed and that state is its effect retired. -/
theorem exec_next {i : Instr} {s t : State} (h : exec i s = .next t) :
    i.wellFormed = true ∧ t = finish (effectOf i s) s := by
  rw [exec_eq, onPairs_eq] at h
  by_cases hw : pairsEven i.pairFields = true
  · rw [if_pos hw, retire_eq] at h
    exact ⟨hw, (Host.Outcome.next.inj h).symm⟩
  · rw [if_neg hw] at h
    cases h

/-- No meaning ends in a fault. -/
theorem exec_not_fault (i : Instr) (s : State) (f : Fault) : exec i s ≠ .fault f := by
  rw [exec_eq, onPairs_eq]
  split <;> intro h <;> cases h

end Sys2Proof.Machine
end

