-- ==== Sys2Proof/Laws/Memory.lean ====
section
/-! SUPPORT. Storage: reading a byte after writing one, and the canonical form every operation keeps. -/

namespace Sys2Proof.Machine

/-- A list in canonical form whose addresses are all above a bound. -/
def Memory.above (lo : Nat) (m : List Host.Cell) : Prop := ∀ c ∈ m, lo < c.1

theorem wf_tail {c : Host.Cell} {m : List Host.Cell} (h : Memory.wf (c :: m) = true) : Memory.wf m = true := by
  obtain ⟨a, x⟩ := c
  cases m with
  | nil => rfl
  | cons d m =>
    obtain ⟨b, y⟩ := d
    simp only [Memory.wf, Bool.and_eq_true, decide_eq_true_eq] at h
    exact h.2

theorem wf_above {a : Nat} {x : Byte} {m : List Host.Cell} (h : Memory.wf ((a, x) :: m) = true) : Memory.above a m := by
  induction m generalizing a x with
  | nil => intro c hc; cases hc
  | cons d m ih =>
    obtain ⟨b, y⟩ := d
    simp only [Memory.wf, Bool.and_eq_true, decide_eq_true_eq] at h
    intro c hc
    rcases List.mem_cons.mp hc with rfl | hc
    · exact h.1
    · exact lt_trans h.1 (ih h.2 c hc)

theorem wf_head_lt {a : Nat} {x : Byte} {m : List Host.Cell} (h : Memory.wf ((a, x) :: m) = true) : a < 2 ^ 64 := by
  induction m generalizing a x with
  | nil => simpa only [Memory.wf, decide_eq_true_eq] using h
  | cons d m ih =>
    obtain ⟨b, y⟩ := d
    simp only [Memory.wf, Bool.and_eq_true, decide_eq_true_eq] at h
    exact lt_trans h.1 (ih h.2)

/-- A cell in front of a canonical list of higher addresses makes a canonical list. -/
theorem wf_cons {a : Nat} {x : Byte} {m : List Host.Cell} (ha : a < 2 ^ 64) (hm : Memory.wf m = true)
    (hlo : Memory.above a m) : Memory.wf ((a, x) :: m) = true := by
  cases m with
  | nil => simpa only [Memory.wf, decide_eq_true_eq] using ha
  | cons d m =>
    obtain ⟨b, y⟩ := d
    simp only [Memory.wf, Bool.and_eq_true, decide_eq_true_eq]
    exact ⟨hlo _ List.mem_cons_self, hm⟩

/-- Nothing stands at an address that no entry has. -/
theorem readByte_above {m : List Host.Cell} {a : Nat} (h : Memory.above a m) : readByte m a = none := by
  cases m with
  | nil => rfl
  | cons c m =>
    obtain ⟨k, b⟩ := c
    have hk : a < k := h _ List.mem_cons_self
    simp [readByte, hk, Nat.ne_of_lt hk]

theorem writeByte_above {m : List Host.Cell} {lo a : Nat} {b : Byte} (h : Memory.above lo m) (ha : lo < a) :
    Memory.above lo (writeByte m a b) := by
  induction m with
  | nil => intro c hc; simp only [writeByte, List.mem_singleton] at hc; rw [hc]; exact ha
  | cons d m ih =>
    obtain ⟨k, y⟩ := d
    have hk : lo < k := h _ List.mem_cons_self
    have hm : Memory.above lo m := fun c hc => h c (List.mem_cons_of_mem _ hc)
    simp only [writeByte]
    split
    · intro c hc
      rcases List.mem_cons.mp hc with rfl | hc
      · exact ha
      · exact h c hc
    · split
      · intro c hc
        rcases List.mem_cons.mp hc with rfl | hc
        · exact ha
        · exact hm c hc
      · intro c hc
        rcases List.mem_cons.mp hc with rfl | hc
        · exact hk
        · exact ih hm c hc

/-- Writing a byte keeps the canonical form. -/
theorem writeByte_wf {m : List Host.Cell} {a : Nat} {b : Byte} (h : Memory.wf m = true) (ha : a < 2 ^ 64) :
    Memory.wf (writeByte m a b) = true := by
  induction m with
  | nil => simpa only [writeByte, Memory.wf, decide_eq_true_eq] using ha
  | cons d m ih =>
    obtain ⟨k, y⟩ := d
    simp only [writeByte]
    split
    · next hak =>
      refine wf_cons ha h fun c hc => ?_
      rcases List.mem_cons.mp hc with rfl | hc
      · exact hak
      · exact lt_trans hak (wf_above h c hc)
    · split
      · next hak => subst hak; exact wf_cons ha (wf_tail h) (wf_above h)
      · next h1 h2 =>
        exact wf_cons (wf_head_lt h) (ih (wf_tail h)) (writeByte_above (wf_above h) (by omega))

/-- A byte reads as what was last written to it, in canonical storage. -/
theorem readByte_writeByte {m : List Host.Cell} {a c : Nat} {b : Byte} (h : Memory.wf m = true) :
    readByte (writeByte m a b) c = if c = a then some b else readByte m c := by
  induction m with
  | nil =>
    simp only [writeByte, readByte]
    split <;> simp
  | cons d m ih =>
    obtain ⟨k, y⟩ := d
    have ih := ih (wf_tail h)
    simp only [writeByte]
    split
    · next hak =>
      by_cases hca : c = a
      · simp [readByte, hca]
      · simp only [readByte, hca, if_false]
        split
        · next hlt => rw [if_neg (by omega), if_pos (by omega)]
        · rfl
    · split
      · next hak =>
        subst hak
        by_cases hca : c = a
        · simp [readByte, hca]
        · simp [readByte, hca]
      · next h1 h2 =>
        simp only [readByte]
        by_cases hck : c = k
        · rw [if_pos hck, if_neg (by omega), if_pos hck]
        · rw [if_neg hck, if_neg hck]
          by_cases hlt : c < k
          · rw [if_pos hlt, if_neg (by omega), if_pos hlt]
          · rw [if_neg hlt, if_neg hlt, ih]

/-- Writing a list of bytes keeps the canonical form. -/
theorem memWrite_wf {m : List Host.Cell} {a : Addr} {bs : List Byte} (h : Memory.wf m = true) :
    Memory.wf (memWrite m a bs) = true := by
  induction bs generalizing m a with
  | nil => exact h
  | cons b bs ih => exact ih (writeByte_wf h a.isLt)

/-- Placing a word keeps the canonical form of storage, and everything else. -/
theorem placeWord_wf {s : State} {w : InsnWord} (h : Memory.wf s.mem = true) : Memory.wf (placeWord s w).mem = true :=
  memWrite_wf h

/-- Storage after reset is in canonical form. -/
theorem reset_mem_wf : Memory.wf State.reset.mem = true := rfl

end Sys2Proof.Machine
end

