-- ==== Sys2Proof/Laws/Numbers.lean ====
section
/-! SUPPORT. Digit counts, trailing zeros, rounding to an integer and the branches of `Deliver`, each said once. -/

namespace Sys2Proof.Machine

/-! ### Digits (00_scope.md R12) -/

/-- The digit count by halving is right for every number it is meant for. -/
theorem digitsFrom_spec (k : Nat) : ∀ n : Nat, 0 < n → n < 10 ^ 2 ^ k →
    0 < digitsFrom k n ∧ 10 ^ (digitsFrom k n - 1) ≤ n ∧ n < 10 ^ digitsFrom k n := by
  induction k with
  | zero =>
    intro n h0 h
    have hn : n ≠ 0 := by omega
    simp only [digitsFrom, hn, if_false]
    norm_num at h ⊢
    omega
  | succ k ih =>
    intro n h0 h
    unfold digitsFrom
    split
    · next hlt => exact ih n h0 hlt
    · next hge =>
      have hp : 0 < 10 ^ 2 ^ k := by positivity
      have hle : 10 ^ 2 ^ k ≤ n := by omega
      have hq : 0 < n / 10 ^ 2 ^ k := Nat.div_pos hle hp
      have hsq : (10 : Nat) ^ 2 ^ (k + 1) = 10 ^ 2 ^ k * 10 ^ 2 ^ k := by rw [← pow_add, pow_succ]; congr 1; omega
      obtain ⟨hd, hlo, hhi⟩ := ih (n / 10 ^ 2 ^ k) hq (Nat.div_lt_of_lt_mul (by rwa [← hsq]))
      refine ⟨Nat.add_pos_right _ hd, ?_, ?_⟩
      · rw [Nat.add_sub_assoc hd, pow_add]
        calc 10 ^ 2 ^ k * 10 ^ (digitsFrom k (n / 10 ^ 2 ^ k) - 1) ≤ 10 ^ 2 ^ k * (n / 10 ^ 2 ^ k) :=
              Nat.mul_le_mul_left _ hlo
          _ ≤ n := Nat.mul_div_le n _
      · rw [pow_add]
        calc n < 10 ^ 2 ^ k * (n / 10 ^ 2 ^ k + 1) := Nat.lt_mul_div_succ n hp
          _ ≤ 10 ^ 2 ^ k * 10 ^ digitsFrom k (n / 10 ^ 2 ^ k) := Nat.mul_le_mul_left _ hhi

/-- A number is below ten to the power that `digits` starts from. -/
theorem lt_digits_bound (n : Nat) : n < 10 ^ 2 ^ (n.log2.log2 + 1) := by
  rcases Nat.eq_zero_or_pos n with rfl | hn
  · positivity
  have h1 : n < 2 ^ (n.log2 + 1) := Nat.lt_log2_self
  have h2 : n.log2 + 1 ≤ 2 ^ (n.log2.log2 + 1) := Nat.lt_log2_self
  calc n < 2 ^ (n.log2 + 1) := h1
    _ ≤ 2 ^ 2 ^ (n.log2.log2 + 1) := Nat.pow_le_pow_right (by norm_num) h2
    _ ≤ 10 ^ 2 ^ (n.log2.log2 + 1) := Nat.pow_le_pow_left (by norm_num) _

/-- `digits n` is the number of decimal digits of a positive n. -/
theorem digits_spec {n : Nat} (h : 0 < n) : 0 < digits n ∧ 10 ^ (digits n - 1) ≤ n ∧ n < 10 ^ digits n :=
  digitsFrom_spec _ n h (lt_digits_bound n)

@[simp] theorem digits_zero : digits 0 = 0 := by decide

/-- Fewer than k + 1 digits means below ten to the k. -/
theorem digits_le_iff (n k : Nat) : digits n ≤ k ↔ n < 10 ^ k := by
  rcases Nat.eq_zero_or_pos n with rfl | hn
  · simp
  obtain ⟨h0, hlo, hhi⟩ := digits_spec hn
  constructor
  · intro h
    exact lt_of_lt_of_le hhi (Nat.pow_le_pow_right (by norm_num) h)
  · intro h
    by_contra hk
    exact absurd (lt_of_lt_of_le h (Nat.pow_le_pow_right (by norm_num) (show k ≤ digits n - 1 by omega))) (by omega)

/-! ### Trailing zeros (00_scope.md R12) -/

/-- The zeros that are counted are there. -/
theorem trailingZeros_dvd (fuel : Nat) : ∀ n : Nat, 10 ^ trailingZeros fuel n ∣ n := by
  induction fuel with
  | zero => intro n; simp [trailingZeros]
  | succ fuel ih =>
    intro n
    unfold trailingZeros
    split
    · next h =>
      obtain ⟨q, hq⟩ := ih (n / 10)
      refine ⟨q, ?_⟩
      have : n = n / 10 * 10 := by omega
      rw [pow_succ, mul_right_comm, ← hq]
      exact this
    · simp

/-- Every zero is counted, as long as there is fuel. -/
theorem le_trailingZeros (fuel : Nat) : ∀ n k : Nat, k ≤ fuel → 10 ^ k ∣ n → k ≤ trailingZeros fuel n := by
  induction fuel with
  | zero => intro n k hk _; omega
  | succ fuel ih =>
    intro n k hk hd
    cases k with
    | zero => omega
    | succ k =>
      have h10 : 10 ∣ n := Dvd.dvd.trans ⟨10 ^ k, by rw [pow_succ, mul_comm]⟩ hd
      have hmod : n % 10 = 0 := Nat.mod_eq_zero_of_dvd h10
      have hdiv : 10 ^ k ∣ n / 10 := by
        obtain ⟨q, rfl⟩ := hd
        refine ⟨q, ?_⟩
        rw [pow_succ, mul_right_comm, Nat.mul_div_cancel _ (by norm_num)]
      simpa [trailingZeros, hmod] using ih (n / 10) k (by omega) hdiv

/-- `tz` of a positive number is the largest power of ten that divides it. -/
theorem tz_spec {n : Nat} (h : 0 < n) (k : Nat) : 10 ^ k ∣ n ↔ k ≤ tz n := by
  constructor
  · intro hd
    refine le_trailingZeros _ n k ?_ hd
    by_contra hk
    have h1 : 10 ^ k ≤ n := Nat.le_of_dvd h hd
    have h2 := (digits_spec h).2.2
    exact absurd (lt_of_lt_of_le h2 (Nat.pow_le_pow_right (by norm_num) (show digits n ≤ k by omega))) (by omega)
  · intro hk
    exact (pow_dvd_pow 10 hk).trans (trailingZeros_dvd _ n)

/-! ### Form selection and delivery (41_dfp_execution_model.md R176, R180) -/

/-- The exponent of the selected form is between that of the value given and the bound. -/
theorem selectExp_bounds (c : Nat) (e : Int) (inexact : Bool) (ideal hi : Int) (h : e ≤ hi) :
    e ≤ selectExp c e inexact ideal hi ∧ selectExp c e inexact ideal hi ≤ hi := by
  unfold selectExp clamp
  split <;> omega

/-- An inexact or zero value keeps its form. -/
theorem selectExp_kept (c : Nat) (e ideal hi : Int) : selectExp c e true ideal hi = e := by
  simp [selectExp]

/-- What `Deliver` can answer: a wrapped or a default result of an overflow, a wrapped or a subnormal result of a tiny value,
or a rounded normal one. -/
theorem deliver_cases (F : Format) (hi : Int) (s : Bool) (v : Mag) (ideal : Int) (mode : RMode) (alpha : Int)
    (fpscr : BitVec 64) :
    (F.xmax < (roundP F.prec mode s v).e ∧ enabled fpscr .overflow = true ∧
      deliver F hi s v ideal mode alpha fpscr = deliverWrapped F hi s v ideal mode (-alpha) .ox) ∨
    (F.xmax < (roundP F.prec mode s v).e ∧ enabled fpscr .overflow = false ∧
      deliver F hi s v ideal mode alpha fpscr = deliverOverflow F s mode) ∨
    ((roundP F.prec mode s v).e ≤ F.xmax ∧ v.precExp F.prec < F.xmin ∧ enabled fpscr .underflow = true ∧
      deliver F hi s v ideal mode alpha fpscr = deliverWrapped F hi s v ideal mode alpha .ux) ∨
    ((roundP F.prec mode s v).e ≤ F.xmax ∧ v.precExp F.prec < F.xmin ∧ enabled fpscr .underflow = false ∧
      deliver F hi s v ideal mode alpha fpscr = deliverTiny F s v ideal mode) ∨
    ((roundP F.prec mode s v).e ≤ F.xmax ∧ F.xmin ≤ v.precExp F.prec ∧
      deliver F hi s v ideal mode alpha fpscr = deliverNormal F s (roundP F.prec mode s v) ideal) := by
  unfold deliver
  by_cases h1 : F.xmax < (roundP F.prec mode s v).e
  · cases h2 : enabled fpscr .overflow <;> simp [h1]
  · by_cases h3 : v.precExp F.prec < F.xmin
    · cases h4 : enabled fpscr .underflow <;> simp [h1, h3, not_lt.mp h1]
    · simp [h1, h3, not_lt.mp h1, not_lt.mp h3]

end Sys2Proof.Machine
end

