-- ==== Sys2Proof/Laws/PerInstr.lean ====
section
/-! SUPPORT. A statement about every instruction, with one lemma per constructor: its word selects its own row of the opcode
table (30_encoding.md R95, R98), whatever its register fields hold. -/

namespace Sys2Proof.Laws.RowSelect

open Sys2Proof

/-- The word of an instruction matches the instruction's own row. -/
def Statement (i : Instr) : Prop := rowOf (encode i).toNat = some i.op

theorem toNat_encode (i : Instr) (h : i.op.baseWord + i.fieldBits < 2 ^ 32) :
    (encode i).toNat = i.op.baseWord + i.fieldBits := by
  simp only [encode, BitVec.toNat_ofNat]
  exact Nat.mod_eq_of_lt h

/-- A word with primary opcode 59 selects by its bits 21:30. -/
theorem rowOf_59 {n : Nat} (h : n / 2 ^ 26 % 64 = 59) : rowOf n = row59 (n / 2 % 1024) := by
  have : fld n 0 5 = 59 := h
  unfold rowOf
  rw [this]
  rfl

/-- A word with primary opcode 63 selects by its bits 21:30. -/
theorem rowOf_63 {n : Nat} (h : n / 2 ^ 26 % 64 = 63) : rowOf n = row63 (n / 2 % 1024) := by
  have : fld n 0 5 = 63 := h
  unfold rowOf
  rw [this]
  rfl

theorem toNat_lt_two (b : Bool) : b.toNat < 2 := by cases b <;> decide

theorem dadd (frt fra frb : FReg) (rc : Bool) : Statement (.dadd frt fra frb rc) := by
  have h0 := frt.isLt
  have h1 := fra.isLt
  have h2 := frb.isLt
  have h3 := toNat_lt_two rc
  have hlt : 59 * 2 ^ 26 + 2 * 2 + (frt.val * 2 ^ 21 + fra.val * 2 ^ 16 + frb.val * 2 ^ 11 + rc.toNat) < 2 ^ 32 := by omega
  have hn : (encode (.dadd frt fra frb rc)).toNat = 59 * 2 ^ 26 + 2 * 2 + (frt.val * 2 ^ 21 + fra.val * 2 ^ 16 + frb.val * 2 ^ 11 + rc.toNat) :=
    toNat_encode (.dadd frt fra frb rc) hlt
  unfold Statement
  rw [rowOf_59 (by omega)]
  rw [show (encode (.dadd frt fra frb rc)).toNat / 2 % 1024 = 2 by omega]
  rfl

theorem daddq (frt fra frb : FReg) (rc : Bool) : Statement (.daddq frt fra frb rc) := by
  have h0 := frt.isLt
  have h1 := fra.isLt
  have h2 := frb.isLt
  have h3 := toNat_lt_two rc
  have hlt : 63 * 2 ^ 26 + 2 * 2 + (frt.val * 2 ^ 21 + fra.val * 2 ^ 16 + frb.val * 2 ^ 11 + rc.toNat) < 2 ^ 32 := by omega
  have hn : (encode (.daddq frt fra frb rc)).toNat = 63 * 2 ^ 26 + 2 * 2 + (frt.val * 2 ^ 21 + fra.val * 2 ^ 16 + frb.val * 2 ^ 11 + rc.toNat) :=
    toNat_encode (.daddq frt fra frb rc) hlt
  unfold Statement
  rw [rowOf_63 (by omega)]
  rw [show (encode (.daddq frt fra frb rc)).toNat / 2 % 1024 = 2 by omega]
  rfl

theorem dsub (frt fra frb : FReg) (rc : Bool) : Statement (.dsub frt fra frb rc) := by
  have h0 := frt.isLt
  have h1 := fra.isLt
  have h2 := frb.isLt
  have h3 := toNat_lt_two rc
  have hlt : 59 * 2 ^ 26 + 514 * 2 + (frt.val * 2 ^ 21 + fra.val * 2 ^ 16 + frb.val * 2 ^ 11 + rc.toNat) < 2 ^ 32 := by omega
  have hn : (encode (.dsub frt fra frb rc)).toNat = 59 * 2 ^ 26 + 514 * 2 + (frt.val * 2 ^ 21 + fra.val * 2 ^ 16 + frb.val * 2 ^ 11 + rc.toNat) :=
    toNat_encode (.dsub frt fra frb rc) hlt
  unfold Statement
  rw [rowOf_59 (by omega)]
  rw [show (encode (.dsub frt fra frb rc)).toNat / 2 % 1024 = 514 by omega]
  rfl

theorem dsubq (frt fra frb : FReg) (rc : Bool) : Statement (.dsubq frt fra frb rc) := by
  have h0 := frt.isLt
  have h1 := fra.isLt
  have h2 := frb.isLt
  have h3 := toNat_lt_two rc
  have hlt : 63 * 2 ^ 26 + 514 * 2 + (frt.val * 2 ^ 21 + fra.val * 2 ^ 16 + frb.val * 2 ^ 11 + rc.toNat) < 2 ^ 32 := by omega
  have hn : (encode (.dsubq frt fra frb rc)).toNat = 63 * 2 ^ 26 + 514 * 2 + (frt.val * 2 ^ 21 + fra.val * 2 ^ 16 + frb.val * 2 ^ 11 + rc.toNat) :=
    toNat_encode (.dsubq frt fra frb rc) hlt
  unfold Statement
  rw [rowOf_63 (by omega)]
  rw [show (encode (.dsubq frt fra frb rc)).toNat / 2 % 1024 = 514 by omega]
  rfl

theorem dmul (frt fra frb : FReg) (rc : Bool) : Statement (.dmul frt fra frb rc) := by
  have h0 := frt.isLt
  have h1 := fra.isLt
  have h2 := frb.isLt
  have h3 := toNat_lt_two rc
  have hlt : 59 * 2 ^ 26 + 34 * 2 + (frt.val * 2 ^ 21 + fra.val * 2 ^ 16 + frb.val * 2 ^ 11 + rc.toNat) < 2 ^ 32 := by omega
  have hn : (encode (.dmul frt fra frb rc)).toNat = 59 * 2 ^ 26 + 34 * 2 + (frt.val * 2 ^ 21 + fra.val * 2 ^ 16 + frb.val * 2 ^ 11 + rc.toNat) :=
    toNat_encode (.dmul frt fra frb rc) hlt
  unfold Statement
  rw [rowOf_59 (by omega)]
  rw [show (encode (.dmul frt fra frb rc)).toNat / 2 % 1024 = 34 by omega]
  rfl

theorem dmulq (frt fra frb : FReg) (rc : Bool) : Statement (.dmulq frt fra frb rc) := by
  have h0 := frt.isLt
  have h1 := fra.isLt
  have h2 := frb.isLt
  have h3 := toNat_lt_two rc
  have hlt : 63 * 2 ^ 26 + 34 * 2 + (frt.val * 2 ^ 21 + fra.val * 2 ^ 16 + frb.val * 2 ^ 11 + rc.toNat) < 2 ^ 32 := by omega
  have hn : (encode (.dmulq frt fra frb rc)).toNat = 63 * 2 ^ 26 + 34 * 2 + (frt.val * 2 ^ 21 + fra.val * 2 ^ 16 + frb.val * 2 ^ 11 + rc.toNat) :=
    toNat_encode (.dmulq frt fra frb rc) hlt
  unfold Statement
  rw [rowOf_63 (by omega)]
  rw [show (encode (.dmulq frt fra frb rc)).toNat / 2 % 1024 = 34 by omega]
  rfl

theorem ddiv (frt fra frb : FReg) (rc : Bool) : Statement (.ddiv frt fra frb rc) := by
  have h0 := frt.isLt
  have h1 := fra.isLt
  have h2 := frb.isLt
  have h3 := toNat_lt_two rc
  have hlt : 59 * 2 ^ 26 + 546 * 2 + (frt.val * 2 ^ 21 + fra.val * 2 ^ 16 + frb.val * 2 ^ 11 + rc.toNat) < 2 ^ 32 := by omega
  have hn : (encode (.ddiv frt fra frb rc)).toNat = 59 * 2 ^ 26 + 546 * 2 + (frt.val * 2 ^ 21 + fra.val * 2 ^ 16 + frb.val * 2 ^ 11 + rc.toNat) :=
    toNat_encode (.ddiv frt fra frb rc) hlt
  unfold Statement
  rw [rowOf_59 (by omega)]
  rw [show (encode (.ddiv frt fra frb rc)).toNat / 2 % 1024 = 546 by omega]
  rfl

theorem ddivq (frt fra frb : FReg) (rc : Bool) : Statement (.ddivq frt fra frb rc) := by
  have h0 := frt.isLt
  have h1 := fra.isLt
  have h2 := frb.isLt
  have h3 := toNat_lt_two rc
  have hlt : 63 * 2 ^ 26 + 546 * 2 + (frt.val * 2 ^ 21 + fra.val * 2 ^ 16 + frb.val * 2 ^ 11 + rc.toNat) < 2 ^ 32 := by omega
  have hn : (encode (.ddivq frt fra frb rc)).toNat = 63 * 2 ^ 26 + 546 * 2 + (frt.val * 2 ^ 21 + fra.val * 2 ^ 16 + frb.val * 2 ^ 11 + rc.toNat) :=
    toNat_encode (.ddivq frt fra frb rc) hlt
  unfold Statement
  rw [rowOf_63 (by omega)]
  rw [show (encode (.ddivq frt fra frb rc)).toNat / 2 % 1024 = 546 by omega]
  rfl

theorem dcmpu (bf : CRField) (fra frb : FReg) : Statement (.dcmpu bf fra frb) := by
  have h0 := bf.isLt
  have h1 := fra.isLt
  have h2 := frb.isLt
  have hlt : 59 * 2 ^ 26 + 642 * 2 + (bf.val * 2 ^ 23 + fra.val * 2 ^ 16 + frb.val * 2 ^ 11) < 2 ^ 32 := by omega
  have hn : (encode (.dcmpu bf fra frb)).toNat = 59 * 2 ^ 26 + 642 * 2 + (bf.val * 2 ^ 23 + fra.val * 2 ^ 16 + frb.val * 2 ^ 11) :=
    toNat_encode (.dcmpu bf fra frb) hlt
  unfold Statement
  rw [rowOf_59 (by omega)]
  rw [show (encode (.dcmpu bf fra frb)).toNat / 2 % 1024 = 642 by omega]
  rfl

theorem dcmpuq (bf : CRField) (fra frb : FReg) : Statement (.dcmpuq bf fra frb) := by
  have h0 := bf.isLt
  have h1 := fra.isLt
  have h2 := frb.isLt
  have hlt : 63 * 2 ^ 26 + 642 * 2 + (bf.val * 2 ^ 23 + fra.val * 2 ^ 16 + frb.val * 2 ^ 11) < 2 ^ 32 := by omega
  have hn : (encode (.dcmpuq bf fra frb)).toNat = 63 * 2 ^ 26 + 642 * 2 + (bf.val * 2 ^ 23 + fra.val * 2 ^ 16 + frb.val * 2 ^ 11) :=
    toNat_encode (.dcmpuq bf fra frb) hlt
  unfold Statement
  rw [rowOf_63 (by omega)]
  rw [show (encode (.dcmpuq bf fra frb)).toNat / 2 % 1024 = 642 by omega]
  rfl

theorem dcmpo (bf : CRField) (fra frb : FReg) : Statement (.dcmpo bf fra frb) := by
  have h0 := bf.isLt
  have h1 := fra.isLt
  have h2 := frb.isLt
  have hlt : 59 * 2 ^ 26 + 130 * 2 + (bf.val * 2 ^ 23 + fra.val * 2 ^ 16 + frb.val * 2 ^ 11) < 2 ^ 32 := by omega
  have hn : (encode (.dcmpo bf fra frb)).toNat = 59 * 2 ^ 26 + 130 * 2 + (bf.val * 2 ^ 23 + fra.val * 2 ^ 16 + frb.val * 2 ^ 11) :=
    toNat_encode (.dcmpo bf fra frb) hlt
  unfold Statement
  rw [rowOf_59 (by omega)]
  rw [show (encode (.dcmpo bf fra frb)).toNat / 2 % 1024 = 130 by omega]
  rfl

theorem dcmpoq (bf : CRField) (fra frb : FReg) : Statement (.dcmpoq bf fra frb) := by
  have h0 := bf.isLt
  have h1 := fra.isLt
  have h2 := frb.isLt
  have hlt : 63 * 2 ^ 26 + 130 * 2 + (bf.val * 2 ^ 23 + fra.val * 2 ^ 16 + frb.val * 2 ^ 11) < 2 ^ 32 := by omega
  have hn : (encode (.dcmpoq bf fra frb)).toNat = 63 * 2 ^ 26 + 130 * 2 + (bf.val * 2 ^ 23 + fra.val * 2 ^ 16 + frb.val * 2 ^ 11) :=
    toNat_encode (.dcmpoq bf fra frb) hlt
  unfold Statement
  rw [rowOf_63 (by omega)]
  rw [show (encode (.dcmpoq bf fra frb)).toNat / 2 % 1024 = 130 by omega]
  rfl

theorem dtstdc (bf : CRField) (fra : FReg) (mask : BitVec 6) : Statement (.dtstdc bf fra mask) := by
  have h0 := bf.isLt
  have h1 := fra.isLt
  have h2 := mask.isLt
  have hlt : 59 * 2 ^ 26 + 194 * 2 + (bf.val * 2 ^ 23 + fra.val * 2 ^ 16 + mask.toNat * 2 ^ 10) < 2 ^ 32 := by omega
  have hn : (encode (.dtstdc bf fra mask)).toNat = 59 * 2 ^ 26 + 194 * 2 + (bf.val * 2 ^ 23 + fra.val * 2 ^ 16 + mask.toNat * 2 ^ 10) :=
    toNat_encode (.dtstdc bf fra mask) hlt
  unfold Statement
  rw [rowOf_59 (by omega)]
  have : (encode (.dtstdc bf fra mask)).toNat / 2 % 1024 = 194 ∨ (encode (.dtstdc bf fra mask)).toNat / 2 % 1024 = 706 := by omega
  rcases this with h | h <;> rw [h] <;> rfl

theorem dtstdcq (bf : CRField) (fra : FReg) (mask : BitVec 6) : Statement (.dtstdcq bf fra mask) := by
  have h0 := bf.isLt
  have h1 := fra.isLt
  have h2 := mask.isLt
  have hlt : 63 * 2 ^ 26 + 194 * 2 + (bf.val * 2 ^ 23 + fra.val * 2 ^ 16 + mask.toNat * 2 ^ 10) < 2 ^ 32 := by omega
  have hn : (encode (.dtstdcq bf fra mask)).toNat = 63 * 2 ^ 26 + 194 * 2 + (bf.val * 2 ^ 23 + fra.val * 2 ^ 16 + mask.toNat * 2 ^ 10) :=
    toNat_encode (.dtstdcq bf fra mask) hlt
  unfold Statement
  rw [rowOf_63 (by omega)]
  have : (encode (.dtstdcq bf fra mask)).toNat / 2 % 1024 = 194 ∨ (encode (.dtstdcq bf fra mask)).toNat / 2 % 1024 = 706 := by omega
  rcases this with h | h <;> rw [h] <;> rfl

theorem dtstdg (bf : CRField) (fra : FReg) (mask : BitVec 6) : Statement (.dtstdg bf fra mask) := by
  have h0 := bf.isLt
  have h1 := fra.isLt
  have h2 := mask.isLt
  have hlt : 59 * 2 ^ 26 + 226 * 2 + (bf.val * 2 ^ 23 + fra.val * 2 ^ 16 + mask.toNat * 2 ^ 10) < 2 ^ 32 := by omega
  have hn : (encode (.dtstdg bf fra mask)).toNat = 59 * 2 ^ 26 + 226 * 2 + (bf.val * 2 ^ 23 + fra.val * 2 ^ 16 + mask.toNat * 2 ^ 10) :=
    toNat_encode (.dtstdg bf fra mask) hlt
  unfold Statement
  rw [rowOf_59 (by omega)]
  have : (encode (.dtstdg bf fra mask)).toNat / 2 % 1024 = 226 ∨ (encode (.dtstdg bf fra mask)).toNat / 2 % 1024 = 738 := by omega
  rcases this with h | h <;> rw [h] <;> rfl

theorem dtstdgq (bf : CRField) (fra : FReg) (mask : BitVec 6) : Statement (.dtstdgq bf fra mask) := by
  have h0 := bf.isLt
  have h1 := fra.isLt
  have h2 := mask.isLt
  have hlt : 63 * 2 ^ 26 + 226 * 2 + (bf.val * 2 ^ 23 + fra.val * 2 ^ 16 + mask.toNat * 2 ^ 10) < 2 ^ 32 := by omega
  have hn : (encode (.dtstdgq bf fra mask)).toNat = 63 * 2 ^ 26 + 226 * 2 + (bf.val * 2 ^ 23 + fra.val * 2 ^ 16 + mask.toNat * 2 ^ 10) :=
    toNat_encode (.dtstdgq bf fra mask) hlt
  unfold Statement
  rw [rowOf_63 (by omega)]
  have : (encode (.dtstdgq bf fra mask)).toNat / 2 % 1024 = 226 ∨ (encode (.dtstdgq bf fra mask)).toNat / 2 % 1024 = 738 := by omega
  rcases this with h | h <;> rw [h] <;> rfl

theorem dtstex (bf : CRField) (fra frb : FReg) : Statement (.dtstex bf fra frb) := by
  have h0 := bf.isLt
  have h1 := fra.isLt
  have h2 := frb.isLt
  have hlt : 59 * 2 ^ 26 + 162 * 2 + (bf.val * 2 ^ 23 + fra.val * 2 ^ 16 + frb.val * 2 ^ 11) < 2 ^ 32 := by omega
  have hn : (encode (.dtstex bf fra frb)).toNat = 59 * 2 ^ 26 + 162 * 2 + (bf.val * 2 ^ 23 + fra.val * 2 ^ 16 + frb.val * 2 ^ 11) :=
    toNat_encode (.dtstex bf fra frb) hlt
  unfold Statement
  rw [rowOf_59 (by omega)]
  rw [show (encode (.dtstex bf fra frb)).toNat / 2 % 1024 = 162 by omega]
  rfl

theorem dtstexq (bf : CRField) (fra frb : FReg) : Statement (.dtstexq bf fra frb) := by
  have h0 := bf.isLt
  have h1 := fra.isLt
  have h2 := frb.isLt
  have hlt : 63 * 2 ^ 26 + 162 * 2 + (bf.val * 2 ^ 23 + fra.val * 2 ^ 16 + frb.val * 2 ^ 11) < 2 ^ 32 := by omega
  have hn : (encode (.dtstexq bf fra frb)).toNat = 63 * 2 ^ 26 + 162 * 2 + (bf.val * 2 ^ 23 + fra.val * 2 ^ 16 + frb.val * 2 ^ 11) :=
    toNat_encode (.dtstexq bf fra frb) hlt
  unfold Statement
  rw [rowOf_63 (by omega)]
  rw [show (encode (.dtstexq bf fra frb)).toNat / 2 % 1024 = 162 by omega]
  rfl

theorem dtstsf (bf : CRField) (fra frb : FReg) : Statement (.dtstsf bf fra frb) := by
  have h0 := bf.isLt
  have h1 := fra.isLt
  have h2 := frb.isLt
  have hlt : 59 * 2 ^ 26 + 674 * 2 + (bf.val * 2 ^ 23 + fra.val * 2 ^ 16 + frb.val * 2 ^ 11) < 2 ^ 32 := by omega
  have hn : (encode (.dtstsf bf fra frb)).toNat = 59 * 2 ^ 26 + 674 * 2 + (bf.val * 2 ^ 23 + fra.val * 2 ^ 16 + frb.val * 2 ^ 11) :=
    toNat_encode (.dtstsf bf fra frb) hlt
  unfold Statement
  rw [rowOf_59 (by omega)]
  rw [show (encode (.dtstsf bf fra frb)).toNat / 2 % 1024 = 674 by omega]
  rfl

theorem dtstsfq (bf : CRField) (fra frb : FReg) : Statement (.dtstsfq bf fra frb) := by
  have h0 := bf.isLt
  have h1 := fra.isLt
  have h2 := frb.isLt
  have hlt : 63 * 2 ^ 26 + 674 * 2 + (bf.val * 2 ^ 23 + fra.val * 2 ^ 16 + frb.val * 2 ^ 11) < 2 ^ 32 := by omega
  have hn : (encode (.dtstsfq bf fra frb)).toNat = 63 * 2 ^ 26 + 674 * 2 + (bf.val * 2 ^ 23 + fra.val * 2 ^ 16 + frb.val * 2 ^ 11) :=
    toNat_encode (.dtstsfq bf fra frb) hlt
  unfold Statement
  rw [rowOf_63 (by omega)]
  rw [show (encode (.dtstsfq bf fra frb)).toNat / 2 % 1024 = 674 by omega]
  rfl

theorem dquai (frt : FReg) (te : BitVec 5) (frb : FReg) (rmc : Fin 4) (rc : Bool) : Statement (.dquai frt te frb rmc rc) := by
  have h0 := frt.isLt
  have h1 := te.isLt
  have h2 := frb.isLt
  have h3 := rmc.isLt
  have h4 := toNat_lt_two rc
  have hlt : 59 * 2 ^ 26 + 67 * 2 + (frt.val * 2 ^ 21 + te.toNat * 2 ^ 16 + frb.val * 2 ^ 11 + rmc.val * 2 ^ 9 + rc.toNat) < 2 ^ 32 := by omega
  have hn : (encode (.dquai frt te frb rmc rc)).toNat = 59 * 2 ^ 26 + 67 * 2 + (frt.val * 2 ^ 21 + te.toNat * 2 ^ 16 + frb.val * 2 ^ 11 + rmc.val * 2 ^ 9 + rc.toNat) :=
    toNat_encode (.dquai frt te frb rmc rc) hlt
  unfold Statement
  rw [rowOf_59 (by omega)]
  have : (encode (.dquai frt te frb rmc rc)).toNat / 2 % 1024 = 67 ∨ (encode (.dquai frt te frb rmc rc)).toNat / 2 % 1024 = 323 ∨ (encode (.dquai frt te frb rmc rc)).toNat / 2 % 1024 = 579 ∨ (encode (.dquai frt te frb rmc rc)).toNat / 2 % 1024 = 835 := by omega
  rcases this with h | h | h | h <;> rw [h] <;> rfl

theorem dquaiq (frt : FReg) (te : BitVec 5) (frb : FReg) (rmc : Fin 4) (rc : Bool) : Statement (.dquaiq frt te frb rmc rc) := by
  have h0 := frt.isLt
  have h1 := te.isLt
  have h2 := frb.isLt
  have h3 := rmc.isLt
  have h4 := toNat_lt_two rc
  have hlt : 63 * 2 ^ 26 + 67 * 2 + (frt.val * 2 ^ 21 + te.toNat * 2 ^ 16 + frb.val * 2 ^ 11 + rmc.val * 2 ^ 9 + rc.toNat) < 2 ^ 32 := by omega
  have hn : (encode (.dquaiq frt te frb rmc rc)).toNat = 63 * 2 ^ 26 + 67 * 2 + (frt.val * 2 ^ 21 + te.toNat * 2 ^ 16 + frb.val * 2 ^ 11 + rmc.val * 2 ^ 9 + rc.toNat) :=
    toNat_encode (.dquaiq frt te frb rmc rc) hlt
  unfold Statement
  rw [rowOf_63 (by omega)]
  have : (encode (.dquaiq frt te frb rmc rc)).toNat / 2 % 1024 = 67 ∨ (encode (.dquaiq frt te frb rmc rc)).toNat / 2 % 1024 = 323 ∨ (encode (.dquaiq frt te frb rmc rc)).toNat / 2 % 1024 = 579 ∨ (encode (.dquaiq frt te frb rmc rc)).toNat / 2 % 1024 = 835 := by omega
  rcases this with h | h | h | h <;> rw [h] <;> rfl

theorem dqua (frt fra frb : FReg) (rmc : Fin 4) (rc : Bool) : Statement (.dqua frt fra frb rmc rc) := by
  have h0 := frt.isLt
  have h1 := fra.isLt
  have h2 := frb.isLt
  have h3 := rmc.isLt
  have h4 := toNat_lt_two rc
  have hlt : 59 * 2 ^ 26 + 3 * 2 + (frt.val * 2 ^ 21 + fra.val * 2 ^ 16 + frb.val * 2 ^ 11 + rmc.val * 2 ^ 9 + rc.toNat) < 2 ^ 32 := by omega
  have hn : (encode (.dqua frt fra frb rmc rc)).toNat = 59 * 2 ^ 26 + 3 * 2 + (frt.val * 2 ^ 21 + fra.val * 2 ^ 16 + frb.val * 2 ^ 11 + rmc.val * 2 ^ 9 + rc.toNat) :=
    toNat_encode (.dqua frt fra frb rmc rc) hlt
  unfold Statement
  rw [rowOf_59 (by omega)]
  have : (encode (.dqua frt fra frb rmc rc)).toNat / 2 % 1024 = 3 ∨ (encode (.dqua frt fra frb rmc rc)).toNat / 2 % 1024 = 259 ∨ (encode (.dqua frt fra frb rmc rc)).toNat / 2 % 1024 = 515 ∨ (encode (.dqua frt fra frb rmc rc)).toNat / 2 % 1024 = 771 := by omega
  rcases this with h | h | h | h <;> rw [h] <;> rfl

theorem dquaq (frt fra frb : FReg) (rmc : Fin 4) (rc : Bool) : Statement (.dquaq frt fra frb rmc rc) := by
  have h0 := frt.isLt
  have h1 := fra.isLt
  have h2 := frb.isLt
  have h3 := rmc.isLt
  have h4 := toNat_lt_two rc
  have hlt : 63 * 2 ^ 26 + 3 * 2 + (frt.val * 2 ^ 21 + fra.val * 2 ^ 16 + frb.val * 2 ^ 11 + rmc.val * 2 ^ 9 + rc.toNat) < 2 ^ 32 := by omega
  have hn : (encode (.dquaq frt fra frb rmc rc)).toNat = 63 * 2 ^ 26 + 3 * 2 + (frt.val * 2 ^ 21 + fra.val * 2 ^ 16 + frb.val * 2 ^ 11 + rmc.val * 2 ^ 9 + rc.toNat) :=
    toNat_encode (.dquaq frt fra frb rmc rc) hlt
  unfold Statement
  rw [rowOf_63 (by omega)]
  have : (encode (.dquaq frt fra frb rmc rc)).toNat / 2 % 1024 = 3 ∨ (encode (.dquaq frt fra frb rmc rc)).toNat / 2 % 1024 = 259 ∨ (encode (.dquaq frt fra frb rmc rc)).toNat / 2 % 1024 = 515 ∨ (encode (.dquaq frt fra frb rmc rc)).toNat / 2 % 1024 = 771 := by omega
  rcases this with h | h | h | h <;> rw [h] <;> rfl

theorem drrnd (frt fra frb : FReg) (rmc : Fin 4) (rc : Bool) : Statement (.drrnd frt fra frb rmc rc) := by
  have h0 := frt.isLt
  have h1 := fra.isLt
  have h2 := frb.isLt
  have h3 := rmc.isLt
  have h4 := toNat_lt_two rc
  have hlt : 59 * 2 ^ 26 + 35 * 2 + (frt.val * 2 ^ 21 + fra.val * 2 ^ 16 + frb.val * 2 ^ 11 + rmc.val * 2 ^ 9 + rc.toNat) < 2 ^ 32 := by omega
  have hn : (encode (.drrnd frt fra frb rmc rc)).toNat = 59 * 2 ^ 26 + 35 * 2 + (frt.val * 2 ^ 21 + fra.val * 2 ^ 16 + frb.val * 2 ^ 11 + rmc.val * 2 ^ 9 + rc.toNat) :=
    toNat_encode (.drrnd frt fra frb rmc rc) hlt
  unfold Statement
  rw [rowOf_59 (by omega)]
  have : (encode (.drrnd frt fra frb rmc rc)).toNat / 2 % 1024 = 35 ∨ (encode (.drrnd frt fra frb rmc rc)).toNat / 2 % 1024 = 291 ∨ (encode (.drrnd frt fra frb rmc rc)).toNat / 2 % 1024 = 547 ∨ (encode (.drrnd frt fra frb rmc rc)).toNat / 2 % 1024 = 803 := by omega
  rcases this with h | h | h | h <;> rw [h] <;> rfl

theorem drrndq (frt fra frb : FReg) (rmc : Fin 4) (rc : Bool) : Statement (.drrndq frt fra frb rmc rc) := by
  have h0 := frt.isLt
  have h1 := fra.isLt
  have h2 := frb.isLt
  have h3 := rmc.isLt
  have h4 := toNat_lt_two rc
  have hlt : 63 * 2 ^ 26 + 35 * 2 + (frt.val * 2 ^ 21 + fra.val * 2 ^ 16 + frb.val * 2 ^ 11 + rmc.val * 2 ^ 9 + rc.toNat) < 2 ^ 32 := by omega
  have hn : (encode (.drrndq frt fra frb rmc rc)).toNat = 63 * 2 ^ 26 + 35 * 2 + (frt.val * 2 ^ 21 + fra.val * 2 ^ 16 + frb.val * 2 ^ 11 + rmc.val * 2 ^ 9 + rc.toNat) :=
    toNat_encode (.drrndq frt fra frb rmc rc) hlt
  unfold Statement
  rw [rowOf_63 (by omega)]
  have : (encode (.drrndq frt fra frb rmc rc)).toNat / 2 % 1024 = 35 ∨ (encode (.drrndq frt fra frb rmc rc)).toNat / 2 % 1024 = 291 ∨ (encode (.drrndq frt fra frb rmc rc)).toNat / 2 % 1024 = 547 ∨ (encode (.drrndq frt fra frb rmc rc)).toNat / 2 % 1024 = 803 := by omega
  rcases this with h | h | h | h <;> rw [h] <;> rfl

theorem drintx (frt : FReg) (r : Bool) (frb : FReg) (rmc : Fin 4) (rc : Bool) : Statement (.drintx frt r frb rmc rc) := by
  have h0 := frt.isLt
  have h1 := toNat_lt_two r
  have h2 := frb.isLt
  have h3 := rmc.isLt
  have h4 := toNat_lt_two rc
  have hlt : 59 * 2 ^ 26 + 99 * 2 + (frt.val * 2 ^ 21 + r.toNat * 2 ^ 16 + frb.val * 2 ^ 11 + rmc.val * 2 ^ 9 + rc.toNat) < 2 ^ 32 := by omega
  have hn : (encode (.drintx frt r frb rmc rc)).toNat = 59 * 2 ^ 26 + 99 * 2 + (frt.val * 2 ^ 21 + r.toNat * 2 ^ 16 + frb.val * 2 ^ 11 + rmc.val * 2 ^ 9 + rc.toNat) :=
    toNat_encode (.drintx frt r frb rmc rc) hlt
  unfold Statement
  rw [rowOf_59 (by omega)]
  have : (encode (.drintx frt r frb rmc rc)).toNat / 2 % 1024 = 99 ∨ (encode (.drintx frt r frb rmc rc)).toNat / 2 % 1024 = 355 ∨ (encode (.drintx frt r frb rmc rc)).toNat / 2 % 1024 = 611 ∨ (encode (.drintx frt r frb rmc rc)).toNat / 2 % 1024 = 867 := by omega
  rcases this with h | h | h | h <;> rw [h] <;> rfl

theorem drintxq (frt : FReg) (r : Bool) (frb : FReg) (rmc : Fin 4) (rc : Bool) : Statement (.drintxq frt r frb rmc rc) := by
  have h0 := frt.isLt
  have h1 := toNat_lt_two r
  have h2 := frb.isLt
  have h3 := rmc.isLt
  have h4 := toNat_lt_two rc
  have hlt : 63 * 2 ^ 26 + 99 * 2 + (frt.val * 2 ^ 21 + r.toNat * 2 ^ 16 + frb.val * 2 ^ 11 + rmc.val * 2 ^ 9 + rc.toNat) < 2 ^ 32 := by omega
  have hn : (encode (.drintxq frt r frb rmc rc)).toNat = 63 * 2 ^ 26 + 99 * 2 + (frt.val * 2 ^ 21 + r.toNat * 2 ^ 16 + frb.val * 2 ^ 11 + rmc.val * 2 ^ 9 + rc.toNat) :=
    toNat_encode (.drintxq frt r frb rmc rc) hlt
  unfold Statement
  rw [rowOf_63 (by omega)]
  have : (encode (.drintxq frt r frb rmc rc)).toNat / 2 % 1024 = 99 ∨ (encode (.drintxq frt r frb rmc rc)).toNat / 2 % 1024 = 355 ∨ (encode (.drintxq frt r frb rmc rc)).toNat / 2 % 1024 = 611 ∨ (encode (.drintxq frt r frb rmc rc)).toNat / 2 % 1024 = 867 := by omega
  rcases this with h | h | h | h <;> rw [h] <;> rfl

theorem drintn (frt : FReg) (r : Bool) (frb : FReg) (rmc : Fin 4) (rc : Bool) : Statement (.drintn frt r frb rmc rc) := by
  have h0 := frt.isLt
  have h1 := toNat_lt_two r
  have h2 := frb.isLt
  have h3 := rmc.isLt
  have h4 := toNat_lt_two rc
  have hlt : 59 * 2 ^ 26 + 227 * 2 + (frt.val * 2 ^ 21 + r.toNat * 2 ^ 16 + frb.val * 2 ^ 11 + rmc.val * 2 ^ 9 + rc.toNat) < 2 ^ 32 := by omega
  have hn : (encode (.drintn frt r frb rmc rc)).toNat = 59 * 2 ^ 26 + 227 * 2 + (frt.val * 2 ^ 21 + r.toNat * 2 ^ 16 + frb.val * 2 ^ 11 + rmc.val * 2 ^ 9 + rc.toNat) :=
    toNat_encode (.drintn frt r frb rmc rc) hlt
  unfold Statement
  rw [rowOf_59 (by omega)]
  have : (encode (.drintn frt r frb rmc rc)).toNat / 2 % 1024 = 227 ∨ (encode (.drintn frt r frb rmc rc)).toNat / 2 % 1024 = 483 ∨ (encode (.drintn frt r frb rmc rc)).toNat / 2 % 1024 = 739 ∨ (encode (.drintn frt r frb rmc rc)).toNat / 2 % 1024 = 995 := by omega
  rcases this with h | h | h | h <;> rw [h] <;> rfl

theorem drintnq (frt : FReg) (r : Bool) (frb : FReg) (rmc : Fin 4) (rc : Bool) : Statement (.drintnq frt r frb rmc rc) := by
  have h0 := frt.isLt
  have h1 := toNat_lt_two r
  have h2 := frb.isLt
  have h3 := rmc.isLt
  have h4 := toNat_lt_two rc
  have hlt : 63 * 2 ^ 26 + 227 * 2 + (frt.val * 2 ^ 21 + r.toNat * 2 ^ 16 + frb.val * 2 ^ 11 + rmc.val * 2 ^ 9 + rc.toNat) < 2 ^ 32 := by omega
  have hn : (encode (.drintnq frt r frb rmc rc)).toNat = 63 * 2 ^ 26 + 227 * 2 + (frt.val * 2 ^ 21 + r.toNat * 2 ^ 16 + frb.val * 2 ^ 11 + rmc.val * 2 ^ 9 + rc.toNat) :=
    toNat_encode (.drintnq frt r frb rmc rc) hlt
  unfold Statement
  rw [rowOf_63 (by omega)]
  have : (encode (.drintnq frt r frb rmc rc)).toNat / 2 % 1024 = 227 ∨ (encode (.drintnq frt r frb rmc rc)).toNat / 2 % 1024 = 483 ∨ (encode (.drintnq frt r frb rmc rc)).toNat / 2 % 1024 = 739 ∨ (encode (.drintnq frt r frb rmc rc)).toNat / 2 % 1024 = 995 := by omega
  rcases this with h | h | h | h <;> rw [h] <;> rfl

theorem dctdp (frt frb : FReg) (rc : Bool) : Statement (.dctdp frt frb rc) := by
  have h0 := frt.isLt
  have h1 := frb.isLt
  have h2 := toNat_lt_two rc
  have hlt : 59 * 2 ^ 26 + 258 * 2 + (frt.val * 2 ^ 21 + frb.val * 2 ^ 11 + rc.toNat) < 2 ^ 32 := by omega
  have hn : (encode (.dctdp frt frb rc)).toNat = 59 * 2 ^ 26 + 258 * 2 + (frt.val * 2 ^ 21 + frb.val * 2 ^ 11 + rc.toNat) :=
    toNat_encode (.dctdp frt frb rc) hlt
  unfold Statement
  rw [rowOf_59 (by omega)]
  rw [show (encode (.dctdp frt frb rc)).toNat / 2 % 1024 = 258 by omega]
  rfl

theorem dctqpq (frt frb : FReg) (rc : Bool) : Statement (.dctqpq frt frb rc) := by
  have h0 := frt.isLt
  have h1 := frb.isLt
  have h2 := toNat_lt_two rc
  have hlt : 63 * 2 ^ 26 + 258 * 2 + (frt.val * 2 ^ 21 + frb.val * 2 ^ 11 + rc.toNat) < 2 ^ 32 := by omega
  have hn : (encode (.dctqpq frt frb rc)).toNat = 63 * 2 ^ 26 + 258 * 2 + (frt.val * 2 ^ 21 + frb.val * 2 ^ 11 + rc.toNat) :=
    toNat_encode (.dctqpq frt frb rc) hlt
  unfold Statement
  rw [rowOf_63 (by omega)]
  rw [show (encode (.dctqpq frt frb rc)).toNat / 2 % 1024 = 258 by omega]
  rfl

theorem drsp (frt frb : FReg) (rc : Bool) : Statement (.drsp frt frb rc) := by
  have h0 := frt.isLt
  have h1 := frb.isLt
  have h2 := toNat_lt_two rc
  have hlt : 59 * 2 ^ 26 + 770 * 2 + (frt.val * 2 ^ 21 + frb.val * 2 ^ 11 + rc.toNat) < 2 ^ 32 := by omega
  have hn : (encode (.drsp frt frb rc)).toNat = 59 * 2 ^ 26 + 770 * 2 + (frt.val * 2 ^ 21 + frb.val * 2 ^ 11 + rc.toNat) :=
    toNat_encode (.drsp frt frb rc) hlt
  unfold Statement
  rw [rowOf_59 (by omega)]
  rw [show (encode (.drsp frt frb rc)).toNat / 2 % 1024 = 770 by omega]
  rfl

theorem drdpq (frt frb : FReg) (rc : Bool) : Statement (.drdpq frt frb rc) := by
  have h0 := frt.isLt
  have h1 := frb.isLt
  have h2 := toNat_lt_two rc
  have hlt : 63 * 2 ^ 26 + 770 * 2 + (frt.val * 2 ^ 21 + frb.val * 2 ^ 11 + rc.toNat) < 2 ^ 32 := by omega
  have hn : (encode (.drdpq frt frb rc)).toNat = 63 * 2 ^ 26 + 770 * 2 + (frt.val * 2 ^ 21 + frb.val * 2 ^ 11 + rc.toNat) :=
    toNat_encode (.drdpq frt frb rc) hlt
  unfold Statement
  rw [rowOf_63 (by omega)]
  rw [show (encode (.drdpq frt frb rc)).toNat / 2 % 1024 = 770 by omega]
  rfl

theorem dcffixq (frt frb : FReg) (rc : Bool) : Statement (.dcffixq frt frb rc) := by
  have h0 := frt.isLt
  have h1 := frb.isLt
  have h2 := toNat_lt_two rc
  have hlt : 63 * 2 ^ 26 + 802 * 2 + (frt.val * 2 ^ 21 + frb.val * 2 ^ 11 + rc.toNat) < 2 ^ 32 := by omega
  have hn : (encode (.dcffixq frt frb rc)).toNat = 63 * 2 ^ 26 + 802 * 2 + (frt.val * 2 ^ 21 + frb.val * 2 ^ 11 + rc.toNat) :=
    toNat_encode (.dcffixq frt frb rc) hlt
  unfold Statement
  rw [rowOf_63 (by omega)]
  rw [show (encode (.dcffixq frt frb rc)).toNat / 2 % 1024 = 802 by omega]
  rfl

theorem dctfix (frt frb : FReg) (rc : Bool) : Statement (.dctfix frt frb rc) := by
  have h0 := frt.isLt
  have h1 := frb.isLt
  have h2 := toNat_lt_two rc
  have hlt : 59 * 2 ^ 26 + 290 * 2 + (frt.val * 2 ^ 21 + frb.val * 2 ^ 11 + rc.toNat) < 2 ^ 32 := by omega
  have hn : (encode (.dctfix frt frb rc)).toNat = 59 * 2 ^ 26 + 290 * 2 + (frt.val * 2 ^ 21 + frb.val * 2 ^ 11 + rc.toNat) :=
    toNat_encode (.dctfix frt frb rc) hlt
  unfold Statement
  rw [rowOf_59 (by omega)]
  rw [show (encode (.dctfix frt frb rc)).toNat / 2 % 1024 = 290 by omega]
  rfl

theorem dctfixq (frt frb : FReg) (rc : Bool) : Statement (.dctfixq frt frb rc) := by
  have h0 := frt.isLt
  have h1 := frb.isLt
  have h2 := toNat_lt_two rc
  have hlt : 63 * 2 ^ 26 + 290 * 2 + (frt.val * 2 ^ 21 + frb.val * 2 ^ 11 + rc.toNat) < 2 ^ 32 := by omega
  have hn : (encode (.dctfixq frt frb rc)).toNat = 63 * 2 ^ 26 + 290 * 2 + (frt.val * 2 ^ 21 + frb.val * 2 ^ 11 + rc.toNat) :=
    toNat_encode (.dctfixq frt frb rc) hlt
  unfold Statement
  rw [rowOf_63 (by omega)]
  rw [show (encode (.dctfixq frt frb rc)).toNat / 2 % 1024 = 290 by omega]
  rfl

theorem ddedpd (frt : FReg) (sp0 sp1 : Bool) (frb : FReg) (rc : Bool) : Statement (.ddedpd frt sp0 sp1 frb rc) := by
  have h0 := frt.isLt
  have h1 := toNat_lt_two sp0
  have h2 := toNat_lt_two sp1
  have h3 := frb.isLt
  have h4 := toNat_lt_two rc
  have hlt : 59 * 2 ^ 26 + 322 * 2 + (frt.val * 2 ^ 21 + sp0.toNat * 2 ^ 20 + sp1.toNat * 2 ^ 19 + frb.val * 2 ^ 11 + rc.toNat) < 2 ^ 32 := by omega
  have hn : (encode (.ddedpd frt sp0 sp1 frb rc)).toNat = 59 * 2 ^ 26 + 322 * 2 + (frt.val * 2 ^ 21 + sp0.toNat * 2 ^ 20 + sp1.toNat * 2 ^ 19 + frb.val * 2 ^ 11 + rc.toNat) :=
    toNat_encode (.ddedpd frt sp0 sp1 frb rc) hlt
  unfold Statement
  rw [rowOf_59 (by omega)]
  rw [show (encode (.ddedpd frt sp0 sp1 frb rc)).toNat / 2 % 1024 = 322 by omega]
  rfl

theorem ddedpdq (frt : FReg) (sp0 sp1 : Bool) (frb : FReg) (rc : Bool) : Statement (.ddedpdq frt sp0 sp1 frb rc) := by
  have h0 := frt.isLt
  have h1 := toNat_lt_two sp0
  have h2 := toNat_lt_two sp1
  have h3 := frb.isLt
  have h4 := toNat_lt_two rc
  have hlt : 63 * 2 ^ 26 + 322 * 2 + (frt.val * 2 ^ 21 + sp0.toNat * 2 ^ 20 + sp1.toNat * 2 ^ 19 + frb.val * 2 ^ 11 + rc.toNat) < 2 ^ 32 := by omega
  have hn : (encode (.ddedpdq frt sp0 sp1 frb rc)).toNat = 63 * 2 ^ 26 + 322 * 2 + (frt.val * 2 ^ 21 + sp0.toNat * 2 ^ 20 + sp1.toNat * 2 ^ 19 + frb.val * 2 ^ 11 + rc.toNat) :=
    toNat_encode (.ddedpdq frt sp0 sp1 frb rc) hlt
  unfold Statement
  rw [rowOf_63 (by omega)]
  rw [show (encode (.ddedpdq frt sp0 sp1 frb rc)).toNat / 2 % 1024 = 322 by omega]
  rfl

theorem denbcd (frt : FReg) (sgn : Bool) (frb : FReg) (rc : Bool) : Statement (.denbcd frt sgn frb rc) := by
  have h0 := frt.isLt
  have h1 := toNat_lt_two sgn
  have h2 := frb.isLt
  have h3 := toNat_lt_two rc
  have hlt : 59 * 2 ^ 26 + 834 * 2 + (frt.val * 2 ^ 21 + sgn.toNat * 2 ^ 20 + frb.val * 2 ^ 11 + rc.toNat) < 2 ^ 32 := by omega
  have hn : (encode (.denbcd frt sgn frb rc)).toNat = 59 * 2 ^ 26 + 834 * 2 + (frt.val * 2 ^ 21 + sgn.toNat * 2 ^ 20 + frb.val * 2 ^ 11 + rc.toNat) :=
    toNat_encode (.denbcd frt sgn frb rc) hlt
  unfold Statement
  rw [rowOf_59 (by omega)]
  rw [show (encode (.denbcd frt sgn frb rc)).toNat / 2 % 1024 = 834 by omega]
  rfl

theorem denbcdq (frt : FReg) (sgn : Bool) (frb : FReg) (rc : Bool) : Statement (.denbcdq frt sgn frb rc) := by
  have h0 := frt.isLt
  have h1 := toNat_lt_two sgn
  have h2 := frb.isLt
  have h3 := toNat_lt_two rc
  have hlt : 63 * 2 ^ 26 + 834 * 2 + (frt.val * 2 ^ 21 + sgn.toNat * 2 ^ 20 + frb.val * 2 ^ 11 + rc.toNat) < 2 ^ 32 := by omega
  have hn : (encode (.denbcdq frt sgn frb rc)).toNat = 63 * 2 ^ 26 + 834 * 2 + (frt.val * 2 ^ 21 + sgn.toNat * 2 ^ 20 + frb.val * 2 ^ 11 + rc.toNat) :=
    toNat_encode (.denbcdq frt sgn frb rc) hlt
  unfold Statement
  rw [rowOf_63 (by omega)]
  rw [show (encode (.denbcdq frt sgn frb rc)).toNat / 2 % 1024 = 834 by omega]
  rfl

theorem dxex (frt frb : FReg) (rc : Bool) : Statement (.dxex frt frb rc) := by
  have h0 := frt.isLt
  have h1 := frb.isLt
  have h2 := toNat_lt_two rc
  have hlt : 59 * 2 ^ 26 + 354 * 2 + (frt.val * 2 ^ 21 + frb.val * 2 ^ 11 + rc.toNat) < 2 ^ 32 := by omega
  have hn : (encode (.dxex frt frb rc)).toNat = 59 * 2 ^ 26 + 354 * 2 + (frt.val * 2 ^ 21 + frb.val * 2 ^ 11 + rc.toNat) :=
    toNat_encode (.dxex frt frb rc) hlt
  unfold Statement
  rw [rowOf_59 (by omega)]
  rw [show (encode (.dxex frt frb rc)).toNat / 2 % 1024 = 354 by omega]
  rfl

theorem dxexq (frt frb : FReg) (rc : Bool) : Statement (.dxexq frt frb rc) := by
  have h0 := frt.isLt
  have h1 := frb.isLt
  have h2 := toNat_lt_two rc
  have hlt : 63 * 2 ^ 26 + 354 * 2 + (frt.val * 2 ^ 21 + frb.val * 2 ^ 11 + rc.toNat) < 2 ^ 32 := by omega
  have hn : (encode (.dxexq frt frb rc)).toNat = 63 * 2 ^ 26 + 354 * 2 + (frt.val * 2 ^ 21 + frb.val * 2 ^ 11 + rc.toNat) :=
    toNat_encode (.dxexq frt frb rc) hlt
  unfold Statement
  rw [rowOf_63 (by omega)]
  rw [show (encode (.dxexq frt frb rc)).toNat / 2 % 1024 = 354 by omega]
  rfl

theorem diex (frt fra frb : FReg) (rc : Bool) : Statement (.diex frt fra frb rc) := by
  have h0 := frt.isLt
  have h1 := fra.isLt
  have h2 := frb.isLt
  have h3 := toNat_lt_two rc
  have hlt : 59 * 2 ^ 26 + 866 * 2 + (frt.val * 2 ^ 21 + fra.val * 2 ^ 16 + frb.val * 2 ^ 11 + rc.toNat) < 2 ^ 32 := by omega
  have hn : (encode (.diex frt fra frb rc)).toNat = 59 * 2 ^ 26 + 866 * 2 + (frt.val * 2 ^ 21 + fra.val * 2 ^ 16 + frb.val * 2 ^ 11 + rc.toNat) :=
    toNat_encode (.diex frt fra frb rc) hlt
  unfold Statement
  rw [rowOf_59 (by omega)]
  rw [show (encode (.diex frt fra frb rc)).toNat / 2 % 1024 = 866 by omega]
  rfl

theorem diexq (frt fra frb : FReg) (rc : Bool) : Statement (.diexq frt fra frb rc) := by
  have h0 := frt.isLt
  have h1 := fra.isLt
  have h2 := frb.isLt
  have h3 := toNat_lt_two rc
  have hlt : 63 * 2 ^ 26 + 866 * 2 + (frt.val * 2 ^ 21 + fra.val * 2 ^ 16 + frb.val * 2 ^ 11 + rc.toNat) < 2 ^ 32 := by omega
  have hn : (encode (.diexq frt fra frb rc)).toNat = 63 * 2 ^ 26 + 866 * 2 + (frt.val * 2 ^ 21 + fra.val * 2 ^ 16 + frb.val * 2 ^ 11 + rc.toNat) :=
    toNat_encode (.diexq frt fra frb rc) hlt
  unfold Statement
  rw [rowOf_63 (by omega)]
  rw [show (encode (.diexq frt fra frb rc)).toNat / 2 % 1024 = 866 by omega]
  rfl

theorem dscli (frt fra : FReg) (sh : Fin 64) (rc : Bool) : Statement (.dscli frt fra sh rc) := by
  have h0 := frt.isLt
  have h1 := fra.isLt
  have h2 := sh.isLt
  have h3 := toNat_lt_two rc
  have hlt : 59 * 2 ^ 26 + 66 * 2 + (frt.val * 2 ^ 21 + fra.val * 2 ^ 16 + sh.val * 2 ^ 10 + rc.toNat) < 2 ^ 32 := by omega
  have hn : (encode (.dscli frt fra sh rc)).toNat = 59 * 2 ^ 26 + 66 * 2 + (frt.val * 2 ^ 21 + fra.val * 2 ^ 16 + sh.val * 2 ^ 10 + rc.toNat) :=
    toNat_encode (.dscli frt fra sh rc) hlt
  unfold Statement
  rw [rowOf_59 (by omega)]
  have : (encode (.dscli frt fra sh rc)).toNat / 2 % 1024 = 66 ∨ (encode (.dscli frt fra sh rc)).toNat / 2 % 1024 = 578 := by omega
  rcases this with h | h <;> rw [h] <;> rfl

theorem dscliq (frt fra : FReg) (sh : Fin 64) (rc : Bool) : Statement (.dscliq frt fra sh rc) := by
  have h0 := frt.isLt
  have h1 := fra.isLt
  have h2 := sh.isLt
  have h3 := toNat_lt_two rc
  have hlt : 63 * 2 ^ 26 + 66 * 2 + (frt.val * 2 ^ 21 + fra.val * 2 ^ 16 + sh.val * 2 ^ 10 + rc.toNat) < 2 ^ 32 := by omega
  have hn : (encode (.dscliq frt fra sh rc)).toNat = 63 * 2 ^ 26 + 66 * 2 + (frt.val * 2 ^ 21 + fra.val * 2 ^ 16 + sh.val * 2 ^ 10 + rc.toNat) :=
    toNat_encode (.dscliq frt fra sh rc) hlt
  unfold Statement
  rw [rowOf_63 (by omega)]
  have : (encode (.dscliq frt fra sh rc)).toNat / 2 % 1024 = 66 ∨ (encode (.dscliq frt fra sh rc)).toNat / 2 % 1024 = 578 := by omega
  rcases this with h | h <;> rw [h] <;> rfl

theorem dscri (frt fra : FReg) (sh : Fin 64) (rc : Bool) : Statement (.dscri frt fra sh rc) := by
  have h0 := frt.isLt
  have h1 := fra.isLt
  have h2 := sh.isLt
  have h3 := toNat_lt_two rc
  have hlt : 59 * 2 ^ 26 + 98 * 2 + (frt.val * 2 ^ 21 + fra.val * 2 ^ 16 + sh.val * 2 ^ 10 + rc.toNat) < 2 ^ 32 := by omega
  have hn : (encode (.dscri frt fra sh rc)).toNat = 59 * 2 ^ 26 + 98 * 2 + (frt.val * 2 ^ 21 + fra.val * 2 ^ 16 + sh.val * 2 ^ 10 + rc.toNat) :=
    toNat_encode (.dscri frt fra sh rc) hlt
  unfold Statement
  rw [rowOf_59 (by omega)]
  have : (encode (.dscri frt fra sh rc)).toNat / 2 % 1024 = 98 ∨ (encode (.dscri frt fra sh rc)).toNat / 2 % 1024 = 610 := by omega
  rcases this with h | h <;> rw [h] <;> rfl

theorem dscriq (frt fra : FReg) (sh : Fin 64) (rc : Bool) : Statement (.dscriq frt fra sh rc) := by
  have h0 := frt.isLt
  have h1 := fra.isLt
  have h2 := sh.isLt
  have h3 := toNat_lt_two rc
  have hlt : 63 * 2 ^ 26 + 98 * 2 + (frt.val * 2 ^ 21 + fra.val * 2 ^ 16 + sh.val * 2 ^ 10 + rc.toNat) < 2 ^ 32 := by omega
  have hn : (encode (.dscriq frt fra sh rc)).toNat = 63 * 2 ^ 26 + 98 * 2 + (frt.val * 2 ^ 21 + fra.val * 2 ^ 16 + sh.val * 2 ^ 10 + rc.toNat) :=
    toNat_encode (.dscriq frt fra sh rc) hlt
  unfold Statement
  rw [rowOf_63 (by omega)]
  have : (encode (.dscriq frt fra sh rc)).toNat / 2 % 1024 = 98 ∨ (encode (.dscriq frt fra sh rc)).toNat / 2 % 1024 = 610 := by omega
  rcases this with h | h <;> rw [h] <;> rfl

end Sys2Proof.Laws.RowSelect
end

