-- ==== Sys2Proof/Tests/Slice0.lean ====
section
/-! SUPPORT. Tests: ill-formed instructions, words from the spec's encodings, one step of every instruction on values of the
spec's own vectors, and a state that meets the hypotheses of each statement. -/

namespace Sys2Proof.Tests

set_option Elab.async false

open Sys2Proof Sys2Proof.Machine

/-! ### Helpers -/

/-- The reset state with some registers, an FPSCR and an exception mode. -/
def stateWith (regs : List (Nat × Nat)) (fpscr : BitVec 64) (mode : BitVec 2) : State :=
  regs.foldl (fun s x => s.setFpr (Fin.ofNat 32 x.1) (BitVec.ofNat 64 x.2))
    { State.reset with fpscr := fpscr, feMode := mode }

/-- The reset state with some DFP values of format F, an FPSCR and an exception mode. -/
def holding (F : Format) (vals : List (FReg × Dfp)) (fpscr : BitVec 64) (mode : BitVec 2) : State :=
  vals.foldl (fun s x => s.writeFprs (dfpWrites F x.1 x.2)) { State.reset with fpscr := fpscr, feMode := mode }

/-- Whether a step answers a next state of which a check holds. -/
def nextHas (a : Answer) (check : State → Bool) : Bool :=
  match a with
  | .next t => check t
  | .fault _ | .refused _ => false

/-- Whether one step of the word, from registers and an FPSCR, gives these registers, this FPSCR and these CR fields, every
other CR field 0, and advances pc. -/
def stepGives (w : InsnWord) (regs : List (Nat × Nat)) (fpscr : BitVec 64) (regs' : List (Nat × Nat))
    (fpscr' : BitVec 64) (crs : List (CRField × BitVec 4)) : Bool :=
  nextHas (step ((stateWith regs fpscr 0b00#2).withFetchWord 32 w.toNat)) fun t =>
    regs'.all (fun x => readFpr t (Fin.ofNat 32 x.1) == BitVec.ofNat 64 x.2) && t.fpscr == fpscr' &&
      t.cr == (crs.foldl (fun c x => c.set x.1 x.2) (Vector.replicate 8 (0 : BitVec 4))) && t.pc == 4

/-! ### Ill-formed instructions (30_encoding.md R103): one term for each pair field -/

theorem ill_formed_daddq_frt : Instr.wellFormed (.daddq 3 2 4 false) = false := by decide

theorem ill_formed_daddq_fra : Instr.wellFormed (.daddq 6 1 4 false) = false := by decide

theorem ill_formed_daddq_frb : Instr.wellFormed (.daddq 6 2 5 false) = false := by decide

theorem ill_formed_dsubq : Instr.wellFormed (.dsubq 6 3 4 false) = false := by decide

theorem ill_formed_dmulq : Instr.wellFormed (.dmulq 6 2 5 true) = false := by decide

theorem ill_formed_ddivq : Instr.wellFormed (.ddivq 31 2 4 false) = false := by decide

theorem ill_formed_dcmpuq : Instr.wellFormed (.dcmpuq 0 1 2) = false := by decide

theorem ill_formed_dcmpoq : Instr.wellFormed (.dcmpoq 0 2 3) = false := by decide

theorem ill_formed_dtstdcq : Instr.wellFormed (.dtstdcq 1 1 0b100000#6) = false := by decide

theorem ill_formed_dtstdgq : Instr.wellFormed (.dtstdgq 1 3 0b100000#6) = false := by decide

theorem ill_formed_dtstexq : Instr.wellFormed (.dtstexq 1 2 3) = false := by decide

theorem ill_formed_dtstsfq : Instr.wellFormed (.dtstsfq 1 2 3) = false := by decide

theorem ill_formed_dquaiq_frt : Instr.wellFormed (.dquaiq 1 0 2 0 false) = false := by decide

theorem ill_formed_dquaiq_frb : Instr.wellFormed (.dquaiq 2 0 1 0 false) = false := by decide

theorem ill_formed_dquaq : Instr.wellFormed (.dquaq 2 3 4 0 false) = false := by decide

theorem ill_formed_drrndq_frt : Instr.wellFormed (.drrndq 1 1 2 0 false) = false := by decide

theorem ill_formed_drrndq_frb : Instr.wellFormed (.drrndq 2 1 1 0 false) = false := by decide

theorem ill_formed_drintxq : Instr.wellFormed (.drintxq 2 false 1 0 false) = false := by decide

theorem ill_formed_drintnq : Instr.wellFormed (.drintnq 1 false 2 0 false) = false := by decide

theorem ill_formed_dctqpq : Instr.wellFormed (.dctqpq 1 1 false) = false := by decide

theorem ill_formed_drdpq : Instr.wellFormed (.drdpq 2 1 false) = false := by decide

theorem ill_formed_dcffixq : Instr.wellFormed (.dcffixq 1 2 false) = false := by decide

theorem ill_formed_dctfixq : Instr.wellFormed (.dctfixq 1 3 false) = false := by decide

theorem ill_formed_ddedpdq : Instr.wellFormed (.ddedpdq 1 false false 2 false) = false := by decide

theorem ill_formed_denbcdq : Instr.wellFormed (.denbcdq 2 false 1 false) = false := by decide

theorem ill_formed_dxexq : Instr.wellFormed (.dxexq 1 3 false) = false := by decide

theorem ill_formed_diexq_frt : Instr.wellFormed (.diexq 1 1 2 false) = false := by decide

theorem ill_formed_diexq_frb : Instr.wellFormed (.diexq 2 1 1 false) = false := by decide

theorem ill_formed_dscliq : Instr.wellFormed (.dscliq 2 1 0 false) = false := by decide

theorem ill_formed_dscriq : Instr.wellFormed (.dscriq 1 2 0 false) = false := by decide

/-- The fields that name single registers take odd numbers (30_encoding.md R99). -/
theorem well_formed_odd_single :
    [Instr.dtstsfq 1 3 4, .drrndq 6 1 4 0 false, .dctqpq 6 3 false, .dcffixq 6 3 false, .dctfixq 3 4 false, .dxexq 3 4 false,
      .diexq 6 1 4 false, .dadd 31 31 31 true].all Instr.wellFormed = true := by decide

/-! ### Decoding: the word of every constructor (30_encoding.md R95; words of spec/95_test_vectors.md and of the rules) -/

theorem decode_dadd : decodeWord 0xEC611004#32 = .ok (.dadd 3 1 2 false) := by decide +kernel

theorem decode_daddq : decodeWord 0xFCC22004#32 = .ok (.daddq 6 2 4 false) := by decide +kernel

theorem decode_dsub : decodeWord 0xEC611404#32 = .ok (.dsub 3 1 2 false) := by decide +kernel

theorem decode_dsubq : decodeWord 0xFCC22405#32 = .ok (.dsubq 6 2 4 true) := by decide +kernel

theorem decode_dmul : decodeWord 0xEC611044#32 = .ok (.dmul 3 1 2 false) := by decide +kernel

theorem decode_dmulq : decodeWord 0xFCC22044#32 = .ok (.dmulq 6 2 4 false) := by decide +kernel

theorem decode_ddiv : decodeWord 0xEC611444#32 = .ok (.ddiv 3 1 2 false) := by decide +kernel

theorem decode_ddivq : decodeWord 0xFCC22444#32 = .ok (.ddivq 6 2 4 false) := by decide +kernel

theorem decode_dcmpu : decodeWord 0xED011504#32 = .ok (.dcmpu 2 1 2) := by decide +kernel

theorem decode_dcmpuq : decodeWord 0xFC022504#32 = .ok (.dcmpuq 0 2 4) := by decide +kernel

theorem decode_dcmpo : decodeWord 0xED011104#32 = .ok (.dcmpo 2 1 2) := by decide +kernel

theorem decode_dcmpoq : decodeWord 0xFD822104#32 = .ok (.dcmpoq 3 2 4) := by decide +kernel

theorem decode_dtstdc : decodeWord 0xEC811184#32 = .ok (.dtstdc 1 1 0b000100#6) := by decide +kernel

theorem decode_dtstdcq : decodeWord 0xFC822184#32 = .ok (.dtstdcq 1 2 0b001000#6) := by decide +kernel

theorem decode_dtstdg : decodeWord 0xEC8109C4#32 = .ok (.dtstdg 1 1 0b000010#6) := by decide +kernel

theorem decode_dtstdgq : decodeWord 0xFC8211C4#32 = .ok (.dtstdgq 1 2 0b000100#6) := by decide +kernel

theorem decode_dtstex : decodeWord 0xEC811144#32 = .ok (.dtstex 1 1 2) := by decide +kernel

theorem decode_dtstexq : decodeWord 0xFC822144#32 = .ok (.dtstexq 1 2 4) := by decide +kernel

theorem decode_dtstsf : decodeWord 0xEC811544#32 = .ok (.dtstsf 1 1 2) := by decide +kernel

theorem decode_dtstsfq : decodeWord 0xFF011544#32 = .ok (.dtstsfq 6 1 2) := by decide +kernel

theorem decode_dquai : decodeWord 0xEC601086#32 = .ok (.dquai 3 0b00000#5 2 0 false) := by decide +kernel

theorem decode_dquaiq : decodeWord 0xFCC01086#32 = .ok (.dquaiq 6 0b00000#5 2 0 false) := by decide +kernel

theorem decode_dqua : decodeWord 0xEC611006#32 = .ok (.dqua 3 1 2 0 false) := by decide +kernel

theorem decode_dquaq : decodeWord 0xFCC22206#32 = .ok (.dquaq 6 2 4 1 false) := by decide +kernel

theorem decode_drrnd : decodeWord 0xEC611046#32 = .ok (.drrnd 3 1 2 0 false) := by decide +kernel

theorem decode_drrndq : decodeWord 0xFCC12046#32 = .ok (.drrndq 6 1 4 0 false) := by decide +kernel

theorem decode_drintx : decodeWord 0xEC6010C6#32 = .ok (.drintx 3 false 2 0 false) := by decide +kernel

theorem decode_drintxq : decodeWord 0xFCC012C6#32 = .ok (.drintxq 6 false 2 1 false) := by decide +kernel

theorem decode_drintn : decodeWord 0xEC6011C6#32 = .ok (.drintn 3 false 2 0 false) := by decide +kernel

theorem decode_drintnq : decodeWord 0xFCC123C7#32 = .ok (.drintnq 6 true 4 1 true) := by decide +kernel

theorem decode_dctdp : decodeWord 0xEC601205#32 = .ok (.dctdp 3 2 true) := by decide +kernel

theorem decode_dctqpq : decodeWord 0xFCC01204#32 = .ok (.dctqpq 6 2 false) := by decide +kernel

theorem decode_drsp : decodeWord 0xEC601604#32 = .ok (.drsp 3 2 false) := by decide +kernel

theorem decode_drdpq : decodeWord 0xFCC01604#32 = .ok (.drdpq 6 2 false) := by decide +kernel

theorem decode_dcffixq : decodeWord 0xFCC01644#32 = .ok (.dcffixq 6 2 false) := by decide +kernel

theorem decode_dctfix : decodeWord 0xEC601244#32 = .ok (.dctfix 3 2 false) := by decide +kernel

theorem decode_dctfixq : decodeWord 0xFC602244#32 = .ok (.dctfixq 3 4 false) := by decide +kernel

theorem decode_ddedpd : decodeWord 0xEC701284#32 = .ok (.ddedpd 3 true false 2 false) := by decide +kernel

theorem decode_ddedpdq : decodeWord 0xFCC01284#32 = .ok (.ddedpdq 6 false false 2 false) := by decide +kernel

theorem decode_denbcd : decodeWord 0xEC601684#32 = .ok (.denbcd 3 false 2 false) := by decide +kernel

theorem decode_denbcdq : decodeWord 0xFCD01684#32 = .ok (.denbcdq 6 true 2 false) := by decide +kernel

theorem decode_dxex : decodeWord 0xEC6012C4#32 = .ok (.dxex 3 2 false) := by decide +kernel

theorem decode_dxexq : decodeWord 0xFC6022C4#32 = .ok (.dxexq 3 4 false) := by decide +kernel

theorem decode_diex : decodeWord 0xEC6116C4#32 = .ok (.diex 3 1 2 false) := by decide +kernel

theorem decode_diexq : decodeWord 0xFCC116C4#32 = .ok (.diexq 6 1 2 false) := by decide +kernel

theorem decode_dscli : decodeWord 0xEC610C85#32 = .ok (.dscli 3 1 3 true) := by decide +kernel

theorem decode_dscliq : decodeWord 0xFCC28484#32 = .ok (.dscliq 6 2 33 false) := by decide +kernel

theorem decode_dscri : decodeWord 0xEC6104C4#32 = .ok (.dscri 3 1 1 false) := by decide +kernel

theorem decode_dscriq : decodeWord 0xFCC284C4#32 = .ok (.dscriq 6 2 33 false) := by decide +kernel

/-! ### Refused words (spec/95_test_vectors.md section 2.1) -/

theorem decode_refuses :
    decodeWord 0xFC622004#32 = .error .invalidForm ∧ decodeWord 0xFCC22804#32 = .error .invalidForm ∧
    decodeWord 0xED011505#32 = .error .reservedBits ∧ decodeWord 0xED411504#32 = .error .reservedBits ∧
    decodeWord 0xEC611204#32 = .error .reservedBits ∧ decodeWord 0xFC602A44#32 = .error .invalidForm ∧
    decodeWord 0xEC7116C6#32 = .error .reservedBits ∧ decodeWord 0xFC818184#32 = .error .invalidForm ∧
    decodeWord 0xEC741284#32 = .error .reservedBits ∧ decodeWord 0xEC000000#32 = .error .unallocated ∧
    decodeWord 0xFC000090#32 = .error .unallocated ∧ decodeWord 0xEC000644#32 = .error .unallocated ∧
    decodeWord 0x7C000000#32 = .error .unallocated ∧ decodeWord 0x00000000#32 = .error .unallocated := by
  decide +kernel

/-! ### One step of every instruction -/

/-- spec/95_test_vectors.md, line 250. -/
theorem test_dadd :
    stepGives 0xEC611004#32 [(1, 0x77FCFF3FCFF3FCFF), (2, 0x77FCFF3FCFF3FCFF)] 0x40
      [(3, 0x0B00000000000000)] 0xD2064040 [] = true := by
  decide +kernel

/-- spec/95_test_vectors.md, line 272. -/
theorem test_daddq :
    stepGives 0xFCC22004#32 [(2, 0x2208000000000000), (3, 0x0000000000000001), (4, 0x2208000000000000),
        (5, 0x0000000000000001)] 0x0
      [(6, 0x2208000000000000), (7, 0x0000000000000002)] 0x4000 [] = true := by
  decide +kernel

/-- spec/95_test_vectors.md, line 254. -/
theorem test_dsub :
    stepGives 0xEC611404#32 [(1, 0x7800000000000000), (2, 0x7800000000000000)] 0x0
      [(3, 0x7C00000000000000)] 0xA0811000 [] = true := by
  decide +kernel

/-- spec/95_test_vectors.md, line 275. -/
theorem test_dsubq :
    stepGives 0xFCC22405#32 [(2, 0x2208000000000000), (3, 0x0000000000000001), (4, 0x2208000000000000),
        (5, 0x0000000000000001)] 0x8
      [(6, 0x2208000000000000), (7, 0x0000000000000000)] 0x2008 [(1, 0b0000)] = true := by
  decide +kernel

/-- spec/95_test_vectors.md, line 140. -/
theorem test_dmul :
    stepGives 0xEC611044#32 [(1, 0xF7FCFF3FCFF3FCFF), (2, 0x2238000000000010)] 0x300000000
      [(3, 0xF800000000000000)] 0x392069000 [] = true := by
  decide +kernel

/-- spec/95_test_vectors.md, line 273. -/
theorem test_dmulq :
    stepGives 0xFCC22044#32 [(2, 0x77FFCFF3FCFF3FCF), (3, 0xF3FCFF3FCFF3FCFF), (4, 0x2208000000000000),
        (5, 0x0000000000000010)] 0x40
      [(6, 0x67000FF3FCFF3FCF), (7, 0xF3FCFF3FCFF3FCFF)] 0xD0004040 [] = true := by
  decide +kernel

/-- spec/95_test_vectors.md, line 276. -/
theorem test_ddiv :
    stepGives 0xEC611444#32 [(1, 0x2238000000000001), (2, 0x2238000000000003)] 0x8
      [(3, 0x2DF9B36CDB36CDB3)] 0xC2024008 [] = true := by
  decide +kernel

/-- spec/95_test_vectors.md, line 274. -/
theorem test_ddivq :
    stepGives 0xFCC22444#32 [(2, 0x2208000000000000), (3, 0x0000000000000001), (4, 0x2208000000000000),
        (5, 0x0000000000000003)] 0x0
      [(6, 0x2DFF9B36CDB36CDB), (7, 0x36CDB36CDB36CDB3)] 0x82024000 [] = true := by
  decide +kernel

/-- spec/95_test_vectors.md, line 291. -/
theorem test_dcmpu :
    stepGives 0xED011504#32 [(1, 0x7E00000000000000), (2, 0x2238000000000001)] 0x80
      [] 0xE1001080 [(2, 0b0001)] = true := by
  decide +kernel

/-- spec/95_test_vectors.md, line 297. -/
theorem test_dcmpuq :
    stepGives 0xFC022504#32 [(2, 0x2608000000000000), (3, 0x0000000000000000), (4, 0x2210400000000000),
        (5, 0x0000000000000001)] 0x0
      [] 0x2000 [(0, 0b0010)] = true := by
  decide +kernel

/-- spec/95_test_vectors.md, line 295. -/
theorem test_dcmpo :
    stepGives 0xED011104#32 [(1, 0x2238000000000001), (2, 0x7E00000000000000)] 0x80
      [] 0xE1001080 [(2, 0b0001)] = true := by
  decide +kernel

/-- spec/95_test_vectors.md, line 298. -/
theorem test_dcmpoq :
    stepGives 0xFD822104#32 [(2, 0x8000000000000000), (3, 0x0000000000000001), (4, 0x2208000000000000),
        (5, 0x0000000000000000)] 0x0
      [] 0x8000 [(3, 0b1000)] = true := by
  decide +kernel

/-- spec/95_test_vectors.md, line 311. -/
theorem test_dtstdc :
    stepGives 0xEC811184#32 [(1, 0xF800000000000000)] 0x0
      [] 0xA000 [(1, 0b1010)] = true := by
  decide +kernel

/-- worked by hand from the rules. -/
theorem test_dtstdcq :
    stepGives 0xFC822184#32 [(2, 0x2208000000000000), (3, 0x0000000000000001)] 0x0
      [] 0x2000 [(1, 0b0010)] = true := by
  decide +kernel

/-- spec/95_test_vectors.md, line 320. -/
theorem test_dtstdg :
    stepGives 0xEC8109C4#32 [(1, 0xA638000000000000)] 0x0
      [] 0xA000 [(1, 0b1010)] = true := by
  decide +kernel

/-- worked by hand from the rules. -/
theorem test_dtstdgq :
    stepGives 0xFC8211C4#32 [(2, 0xA208000000000000), (3, 0x0000000000000001)] 0x0
      [] 0xA000 [(1, 0b1010)] = true := by
  decide +kernel

/-- spec/95_test_vectors.md, line 329. -/
theorem test_dtstex :
    stepGives 0xEC811144#32 [(1, 0x7800000000000000), (2, 0x7C00000000000000)] 0x0
      [] 0x1000 [(1, 0b0001)] = true := by
  decide +kernel

/-- worked by hand from the rules. -/
theorem test_dtstexq :
    stepGives 0xFC822144#32 [(2, 0x2208000000000000), (3, 0x0000000000000001), (4, 0x2208400000000000),
        (5, 0x0000000000000001)] 0x0
      [] 0x8000 [(1, 0b1000)] = true := by
  decide +kernel

/-- spec/95_test_vectors.md, line 335. -/
theorem test_dtstsf :
    stepGives 0xEC811544#32 [(1, 0x0000000000000005), (2, 0x7800000000000000)] 0x0
      [] 0x1000 [(1, 0b0001)] = true := by
  decide +kernel

/-- spec/95_test_vectors.md, line 336. -/
theorem test_dtstsfq :
    stepGives 0xFF011544#32 [(1, 0x0000000000000022), (2, 0x2608000000000000), (3, 0x0000000000000000)] 0x0
      [] 0x2000 [(6, 0b0010)] = true := by
  decide +kernel

/-- spec/95_test_vectors.md, line 354. -/
theorem test_dquai :
    stepGives 0xEC601086#32 [(2, 0xFE00000000000009)] 0x0
      [(3, 0xFC00000000000009)] 0xA1011000 [] = true := by
  decide +kernel

/-- worked by hand from the rules. -/
theorem test_dquaiq :
    stepGives 0xFCC01086#32 [(2, 0x2207C00000000000), (3, 0x0000000000000015)] 0x0
      [(6, 0x2208000000000000), (7, 0x0000000000000002)] 0x82064000 [] = true := by
  decide +kernel

/-- spec/95_test_vectors.md, line 360. -/
theorem test_dqua :
    stepGives 0xEC611006#32 [(1, 0x7C00000000000005), (2, 0x7E00000000000006)] 0x0
      [(3, 0x7C00000000000006)] 0xA1011000 [] = true := by
  decide +kernel

/-- spec/95_test_vectors.md, line 362. -/
theorem test_dquaq :
    stepGives 0xFCC22206#32 [(2, 0x2207000000000000), (3, 0x0000000000000001), (4, 0x2205800000000000),
        (5, 0x0000000C615EB2B5)] 0x0
      [(6, 0x2207000000000000), (7, 0x000000000000C615)] 0x82024000 [] = true := by
  decide +kernel

/-- spec/95_test_vectors.md, line 369. -/
theorem test_drrnd :
    stepGives 0xEC611046#32 [(1, 0x0000000000000001), (2, 0x43FC00000000005B)] 0x0
      [(3, 0x7C00000000000000)] 0xA0011100 [] = true := by
  decide +kernel

/-- spec/95_test_vectors.md, line 371. -/
theorem test_drrndq :
    stepGives 0xFCC12046#32 [(1, 0x0000000000000007), (4, 0x2206C00000000000), (5, 0x14D2E7078A395BCF)] 0x0
      [(6, 0x2209C00000000000), (7, 0x000000000014D2E8)] 0x82064000 [] = true := by
  decide +kernel

/-- spec/95_test_vectors.md, line 382. -/
theorem test_drintx :
    stepGives 0xEC6010C6#32 [(2, 0x2234000000000025)] 0x8
      [(3, 0x2238000000000002)] 0xC2024008 [] = true := by
  decide +kernel

/-- worked by hand from the rules. -/
theorem test_drintxq :
    stepGives 0xFCC012C6#32 [(2, 0x2207C00000000000), (3, 0x0000000000000015)] 0x0
      [(6, 0x2208000000000000), (7, 0x0000000000000001)] 0x82024000 [] = true := by
  decide +kernel

/-- spec/95_test_vectors.md, line 385. -/
theorem test_drintn :
    stepGives 0xEC6011C6#32 [(2, 0x7E00000000000003)] 0x0
      [(3, 0x7C00000000000003)] 0xA1011000 [] = true := by
  decide +kernel

/-- spec/95_test_vectors.md, line 386. -/
theorem test_drintnq :
    stepGives 0xFCC123C7#32 [(4, 0xA207C00000000000), (5, 0x0000000000000015)] 0x0
      [(6, 0xA208000000000000), (7, 0x0000000000000002)] 0x8000 [(1, 0b0000)] = true := by
  decide +kernel

/-- spec/95_test_vectors.md, line 398. -/
theorem test_dctdp :
    stepGives 0xEC601205#32 [(2, 0x00000000FC000001)] 0xA0080000
      [(3, 0xFC00000000000001)] 0xA0091000 [(1, 0b1010)] = true := by
  decide +kernel

/-- spec/95_test_vectors.md, line 401. -/
theorem test_dctqpq :
    stepGives 0xFCC01204#32 [(2, 0x7E0000000000004D)] 0x0
      [(6, 0x7C00000000000000), (7, 0x000000000000004D)] 0xA1011000 [] = true := by
  decide +kernel

/-- spec/95_test_vectors.md, line 411. -/
theorem test_drsp :
    stepGives 0xEC601604#32 [(2, 0x20A0000000000001)] 0x20
      [(3, 0x23A0000000000001)] 0xC8004020 [] = true := by
  decide +kernel

/-- spec/95_test_vectors.md, line 418. -/
theorem test_drdpq :
    stepGives 0xFCC01604#32 [(2, 0x43E4000000000000), (3, 0x0000000000000001)] 0x0
      [(6, 0x7800000000000000)] 0x92065000 [] = true := by
  decide +kernel

/-- spec/95_test_vectors.md, line 424. -/
theorem test_dcffixq :
    stepGives 0xFCC01644#32 [(2, 0x8000000000000000)] 0x0
      [(6, 0xA208000000000000), (7, 0x948DF20DA5CFD42E)] 0x8000 [] = true := by
  decide +kernel

/-- spec/95_test_vectors.md, line 434. -/
theorem test_dctfix :
    stepGives 0xEC601244#32 [(2, 0x7E00000000000000)] 0x0
      [(3, 0x8000000000000000)] 0xA1000100 [] = true := by
  decide +kernel

/-- spec/95_test_vectors.md, line 440. -/
theorem test_dctfixq :
    stepGives 0xFC602244#32 [(4, 0x2207C00000000003), (5, 0xA4CFA07A2C7F6075)] 0x0
      [(3, 0x7FFFFFFFFFFFFFFF)] 0xA0000100 [] = true := by
  decide +kernel

/-- spec/95_test_vectors.md, line 453. -/
theorem test_ddedpd :
    stepGives 0xEC701284#32 [(2, 0xF800000000000007)] 0x0
      [(3, 0x000000000000007D)] 0x0 [] = true := by
  decide +kernel

/-- spec/95_test_vectors.md, line 454. -/
theorem test_ddedpdq :
    stepGives 0xFCC01284#32 [(2, 0x6E080FF3FCFF3FCF), (3, 0xF3FCFF3FCFF3FCFF)] 0x0
      [(6, 0x9999999999999999), (7, 0x9999999999999999)] 0x0 [] = true := by
  decide +kernel

/-- spec/95_test_vectors.md, line 460. -/
theorem test_denbcd :
    stepGives 0xEC601684#32 [(2, 0x000000000012345C)] 0x0
      [(3, 0x7C00000000000000)] 0xA0011100 [] = true := by
  decide +kernel

/-- spec/95_test_vectors.md, line 463. -/
theorem test_denbcdq :
    stepGives 0xFCD01684#32 [(2, 0x0000000000000000), (3, 0x000000000000007D)] 0x0
      [(6, 0xA208000000000000), (7, 0x0000000000000007)] 0x8000 [] = true := by
  decide +kernel

/-- spec/95_test_vectors.md, line 468. -/
theorem test_dxex :
    stepGives 0xEC6012C4#32 [(2, 0x7E00000000000000)] 0x0
      [(3, 0xFFFFFFFFFFFFFFFD)] 0x0 [] = true := by
  decide +kernel

/-- spec/95_test_vectors.md, line 469. -/
theorem test_dxexq :
    stepGives 0xFC6022C4#32 [(4, 0x43FFC00000000000), (5, 0x0000000000000001)] 0x0
      [(3, 0x0000000000002FFF)] 0x0 [] = true := by
  decide +kernel

/-- spec/95_test_vectors.md, line 478. -/
theorem test_diex :
    stepGives 0xEC6116C4#32 [(1, 0x000000000000000A), (2, 0x7803FFFFFFFFFFFF)] 0x0
      [(3, 0x0028FF3FCFF3FCFF)] 0x0 [] = true := by
  decide +kernel

/-- spec/95_test_vectors.md, line 479. -/
theorem test_diexq :
    stepGives 0xFCC116C4#32 [(1, 0x0000000000001820), (2, 0xA207400000000000), (3, 0x0000000000000042)] 0x0
      [(6, 0xA208000000000000), (7, 0x0000000000000042)] 0x0 [] = true := by
  decide +kernel

/-- spec/95_test_vectors.md, line 484. -/
theorem test_dscli :
    stepGives 0xEC610C85#32 [(1, 0x7C00000000000123)] 0x0
      [(3, 0x7C00000000048C00)] 0x0 [(1, 0b0000)] = true := by
  decide +kernel

/-- spec/95_test_vectors.md, line 489. -/
theorem test_dscliq :
    stepGives 0xFCC28484#32 [(2, 0x2208000000000000), (3, 0x0000000000000007)] 0x0
      [(6, 0x3E08000000000000), (7, 0x0000000000000000)] 0x0 [] = true := by
  decide +kernel

/-- spec/95_test_vectors.md, line 488. -/
theorem test_dscri :
    stepGives 0xEC6104C4#32 [(1, 0x7E00000000000025)] 0x0
      [(3, 0x7E00000000000002)] 0x0 [] = true := by
  decide +kernel

/-- spec/95_test_vectors.md, line 490. -/
theorem test_dscriq :
    stepGives 0xFCC284C4#32 [(2, 0x3E08000000000000), (3, 0x0000000000000000)] 0x0
      [(6, 0x2208000000000000), (7, 0x0000000000000007)] 0x0 [] = true := by
  decide +kernel

/-! ### Narrowing to DFP32 (spec/95_test_vectors.md section 2.7, rows 11, 14, 20) -/

theorem test_drsp_exact :
    encodeDfp .dfp32 (narrowFinite .dfp64 .dfp32 192 false 1234567 (-3) 0).d = 0x2624D2E7 := by decide +kernel

theorem test_drsp_overflow :
    nextHas (exec (.drsp 3 2 false) (stateWith [(2, 0x23BC000000000001)] 0 0b00#2)) (fun t => t.fpscr == 0x92065000) =
      true := by
  decide +kernel

/-! ### Enabled exceptions by exception mode, and the host's writes of the FPSCR (spec/95_test_vectors.md section 2.9) -/

/-- The state of the first table of section 2.9, after `ddiv. f4,f1,f2` at address 0x100. -/
def afterDivide (fpscr : BitVec 64) (mode : BitVec 2) : Answer :=
  step (((stateWith [(1, 0x2238000000000001), (2, 0x2238000000000000), (4, 0xDEADBEEFDEADBEEF)] fpscr mode).setPc
    0x100).withFetchWord 32 0xEC811445)

theorem test_zero_divide_disabled :
    [0b00#2, 0b11#2].all (fun m => nextHas (afterDivide 0 m) fun t =>
      readFpr t 4 == 0x7800000000000000 && t.fpscr == 0x84005000 && t.cr[(1 : CRField)] == 0b1000#4 && !t.pending &&
        t.pc == 0x104 && t.trapAt == none) = true := by
  decide +kernel

theorem test_zero_divide_ignored :
    nextHas (afterDivide 0x10 0b00#2) (fun t =>
      readFpr t 4 == 0xDEADBEEFDEADBEEF && t.fpscr == 0xC4000010 && t.cr[(1 : CRField)] == 0b1100#4 && !t.pending &&
        t.pc == 0x104 && t.trapAt == none) = true := by
  decide +kernel

theorem test_zero_divide_precise :
    nextHas (afterDivide 0x10 0b11#2) (fun t =>
      readFpr t 4 == 0xDEADBEEFDEADBEEF && t.fpscr == 0xC4000010 && t.cr[(1 : CRField)] == 0b1100#4 && !t.pending &&
        t.pc == 0x100 && t.trapAt == some 0x100) = true := by
  decide +kernel

/-- Second table of section 2.9: an enabled exception that does not suppress the result. -/
theorem test_inexact_precise :
    nextHas (exec (.ddiv 4 1 2 false) ((stateWith [(1, 0x2238000000000001), (2, 0x2238000000000003)] 0x8 0b11#2).setPc
      0x100)) (fun t => readFpr t 4 == 0x2DF9B36CDB36CDB3 && t.fpscr == 0xC2024008 && t.trapAt == some 0x100) = true := by
  decide +kernel

theorem test_host_sets_ze : mergeFpscr 0x10 0x10 0x84005000 = 0xC4005010#64 := by decide +kernel

theorem test_host_clears_vxisi : mergeFpscr 0x800000 0 0xA0811000 = 0x80011000#64 := by decide +kernel

theorem test_host_sets_vxsoft : mergeFpscr 0x400 0x400 0 = 0x20000400#64 := by decide +kernel

theorem test_host_sets_ve : mergeFpscr 0x80 0x80 0x20000400 = 0x60000480#64 := by decide +kernel

theorem test_host_cannot_write_fex_vx : mergeFpscr 0x60000000 0 0xFFFFFFFF = 0xFFFFFFFF#64 := by decide +kernel

theorem test_host_sets_drn : mergeFpscr 0x700000000 0x700000000 0 = 0x700000000#64 := by decide +kernel

/-- 20_memory.md R66: the word 0xEC611004 in storage as 04 10 61 EC when `InsnBigEndian` is false. -/
theorem test_little_endian_fetch :
    fetch { State.reset with insnBigEndian := false, mem := [(0, 0x04), (1, 0x10), (2, 0x61), (3, 0xEC)] } =
      .insn (.dadd 3 1 2 false) := by
  decide +kernel

/-- Program P4d of spec/95_test_vectors.md at address 0x108: the `ddiv.` that has set ZX, FX and FEX is pending in mode 10,
with what it wrote recorded. -/
def afterP4dDivide : State :=
  makePending [] (zeroDivideEffect .dfp64 4 true 0x4010 false).mask
    { (stateWith [(3, 0x2238000000000002), (4, 0xDEADBEEFDEADBEEF)] 0xC4004010 0b10#2).setPc 0x108 with
      cr := Vector.replicate 8 0 |>.set 1 0b1100#4 }

/-- P4d: the `dmul` "reads FPR[3], not FPR[4], the FPSCR fields or CR[1] written by the ddiv", so it may run before the trap;
its record form, which reads FX, FEX and VX, may not. -/
theorem test_recoverable_dmul_runs :
    mustTrapFirst (.dmul 5 3 3 false) afterP4dDivide = false ∧ mustTrapFirst (.dmul 5 3 3 true) afterP4dDivide = true ∧
      nextHas (exec (.dmul 5 3 3 false) afterP4dDivide) (fun t =>
        readFpr t 5 == 0x2238000000000004 && t.fpscr == 0xC4004010 && t.pc == 0x10C && t.pending) = true := by
  decide +kernel

/-- 60_exceptions.md R378: in mode 10 an instruction that reads the target of the excepting one must wait for the trap, in
mode 01 it need not. -/
theorem test_recoverable_target_read :
    mustTrapFirst (.dmul 5 4 3 false) (makePending [4] 0 afterP4dDivide) = true ∧
      mustTrapFirst (.dmul 5 4 3 false) { makePending [4] 0 afterP4dDivide with feMode := 0b01#2 } = false := by
  decide +kernel

/-! ### States that meet the hypotheses of the statements -/

theorem witness_DecodeOfEncode : (Instr.dquaq 30 28 30 3 true).wellFormed = true := by decide

theorem witness_EncodeOfDecode : decodeWord 0xFFC1F7C7#32 = .ok (.drintnq 30 true 30 3 true) := by decide +kernel

theorem witness_InvalidWordsRefused :
    (Instr.dscriq 31 30 63 true).wellFormed = false ∧ 31 ∈ reservedBitsOf (.dtstsfq 7 31 30) ∧
      11 ∈ reservedBitsOf (.drintn 31 true 31 3 true) ∧ 15 ∈ reservedBitsOf (.ddedpdq 30 true true 30 true) := by decide

/-- Storage with `daddq f6,f2,f4` at the last aligned address, in one byte order. -/
def atTop (big : Bool) : State :=
  { State.reset with pc := 0xFFFFFFFFFFFFFFFC, insnBigEndian := big,
                     mem := memWrite [] 0xFFFFFFFFFFFFFFFC [0xFC, 0xC2, 0x20, 0x04] }

theorem witness_StepRunsDecoded :
    (atTop true).trapAt = none ∧ (atTop true).pending = false ∧ (atTop true).pc.toNat % 4 = 0 ∧
    readByte (atTop true).mem (atTop true).pc.toNat = some 0xFC ∧
    readByte (atTop true).mem ((atTop true).pc + 1).toNat = some 0xC2 ∧
    readByte (atTop true).mem ((atTop true).pc + 2).toNat = some 0x20 ∧
    readByte (atTop true).mem ((atTop true).pc + 3).toNat = some 0x04 ∧
    decodeWord (if (atTop true).insnBigEndian = true then (0xFC#8 ++ 0xC2#8 ++ 0x20#8 ++ 0x04#8 : InsnWord)
      else 0x04#8 ++ 0x20#8 ++ 0xC2#8 ++ 0xFC#8) = .ok (.daddq 6 2 4 false) := by
  decide +kernel

theorem witness_StepRunsDecoded_little :
    (placeWord (atTop false) 0xEC611004).insnBigEndian = false ∧
    readByte (placeWord (atTop false) 0xEC611004).mem (0xFFFFFFFFFFFFFFFC : Addr).toNat = some 0x04 ∧
    readByte (placeWord (atTop false) 0xEC611004).mem (0xFFFFFFFFFFFFFFFF : Addr).toNat = some 0xEC ∧
    decodeWord (0xEC#8 ++ 0x61#8 ++ 0x10#8 ++ 0x04#8 : InsnWord) = .ok (.dadd 3 1 2 false) := by
  decide +kernel

theorem witness_TrapThenResume : (takeTrap 0x100 State.reset).trapAt = some 0x100 := rfl

/-- A state with an exception pending, what FPR[3] and FX hold recorded, in Imprecise Recoverable Mode, at `dadd f3,f1,f2`. -/
def pendingState : State :=
  (makePending [3] 0x80000000 { State.reset with feMode := 0b10#2 }).withFetchWord 32 0xEC611004

theorem witness_PendingStep :
    pendingState.trapAt = none ∧ pendingState.pending = true ∧ pendingState.pc.toNat % 4 = 0 ∧
      fetch pendingState = .insn (.dadd 3 1 2 false) := by
  decide +kernel

theorem witness_Inv_pending : Inv pendingState :=
  ⟨by decide +kernel, by decide +kernel, by decide +kernel, fun h => absurd h (by decide +kernel),
    fun _ h => by cases (show (none : Option Addr) = some _ from h)⟩

/-- The state `dadd` is fetched in, nothing pending. -/
def runnable : State := (stateWith [] 0 0b00#2).withFetchWord 32 0xEC611004

theorem witness_StepKeepsInv : Inv runnable ∧ nextHas (step runnable) (fun _ => true) = true :=
  ⟨⟨by decide +kernel, by decide +kernel, by decide +kernel, fun _ => by decide +kernel,
    fun _ h => by cases (show (none : Option Addr) = some _ from h)⟩, by decide +kernel⟩

/-- A state with an exception pending, and a trapped one. -/
theorem witness_HostActionsKeepInv :
    Inv pendingState ∧ pendingState.trapAt = none ∧
      hostGetFpscr pendingState = .inl (takeTrap pendingState.pc pendingState) ∧
      Inv (takeTrap pendingState.pc pendingState) ∧ (0xFFFFFFFFFFFFFFFC : Addr).toNat % 4 = 0 :=
  ⟨witness_Inv_pending, by decide +kernel, by decide +kernel,
    ⟨by decide +kernel, by decide +kernel, by decide +kernel, fun _ => by decide +kernel,
      fun _ h => by
        injection (show some pendingState.pc = some _ from h) with h'
        rw [← h']
        decide +kernel⟩,
    by decide +kernel⟩

theorem witness_InstructionFrame : ∃ t, exec (.daddq 30 0 28 true) State.reset = .next t := ⟨_, rfl⟩

theorem witness_ResultsIgnoreFeMode :
    ∃ t, exec (.ddiv 3 1 2 true) (stateWith [(1, 0x2238000000000001)] 0x10 0b11#2) = .next t := ⟨_, rfl⟩

/-- A status bit goes from 0 to 1. -/
theorem witness_FxFollowsStatus :
    nextHas (exec (.ddiv 3 1 2 false) (stateWith [] 0 0b00#2)) (newlySet (stateWith [] 0 0b00#2) · 42) = true := by
  decide +kernel

/-- FI affected, and not affected. -/
theorem witness_XxFollowsFi :
    (∃ t, exec (.daddq 30 0 28 true) State.reset = .next t) ∧ 46 ∈ fpscrTargets (.daddq 30 0 28 true) ∧
      (∃ t, exec (.dxex 31 0 false) State.reset = .next t) ∧ 46 ∉ fpscrTargets (.dxex 31 0 false) :=
  ⟨⟨_, rfl⟩, by decide, ⟨_, rfl⟩, by decide⟩

/-- Rc = 1 and Rc = 0. -/
theorem witness_RecordFormCopies :
    (∃ t, exec (.daddq 30 0 28 true) State.reset = .next t) ∧ recordBit (.daddq 30 0 28 true) = true ∧
      isCompareOrTest (.daddq 30 0 28 true) = false ∧
      (∃ t, exec (.dxex 31 0 false) State.reset = .next t) ∧ recordBit (.dxex 31 0 false) = false ∧
      isCompareOrTest (.dxex 31 0 false) = false :=
  ⟨⟨_, rfl⟩, by decide, by decide, ⟨_, rfl⟩, by decide, by decide⟩

theorem witness_EveryInstructionCompletes :
    (Instr.ddivq 30 30 0 true).wellFormed = true ∧
      noEnables (stateWith [] 0xFFFFFFFFFFFFFF07 0b11#2).fpscr = true ∧
      (stateWith [] 0xF8 0b00#2).feMode = 0b00#2 := by
  decide +kernel

/-- 1 / 0 with ZE = 1 raises; 1 / 1 with ZX and FEX left from before does not. -/
theorem witness_PreciseModeOutcome :
    (stateWith [(1, 0x2238000000000001)] 0xC4000010 0b11#2).feMode = 0b11#2 ∧
      raisesEnabled (.ddiv 4 1 2 false) (stateWith [(1, 0x2238000000000001)] 0xC4000010 0b11#2) = true ∧
      raisesEnabled (.ddiv 4 1 1 false) (stateWith [(1, 0x2238000000000001)] 0xC4000010 0b11#2) = false ∧
      nextHas (exec (.ddiv 4 1 2 false) (stateWith [(1, 0x2238000000000001)] 0xC4000010 0b11#2))
        (fun t => t.trapAt == some 0) = true ∧
      nextHas (exec (.ddiv 4 1 1 false) (stateWith [(1, 0x2238000000000001)] 0xC4000010 0b11#2))
        (fun t => t.pc == 4) = true := by
  decide +kernel

/-- 0 / 0 with VE = 1 raises in both modes, 0 + 0 does not. -/
theorem witness_ImpreciseModeOutcome :
    [0b01#2, 0b10#2].all (fun m =>
      raisesEnabled (.ddiv 4 1 2 false) (stateWith [] 0x80 m) && !raisesEnabled (.dadd 4 1 2 false) (stateWith [] 0x80 m) &&
        nextHas (exec (.ddiv 4 1 2 false) (stateWith [] 0x80 m)) (fun _ => true) &&
        nextHas (exec (.dadd 4 1 2 false) (stateWith [] 0x80 m)) (fun _ => true)) = true := by
  decide +kernel

theorem witness_SilentInstructionsComplete :
    (Instr.dscriq 30 30 63 true).wellFormed = true ∧ causesNone (.dscriq 30 30 63 true) = true := by decide

theorem witness_StickyBitsStay :
    nextHas (exec (.dadd 3 1 2 false) (stateWith [] 0x1FF80100 0b00#2)) (fun _ => true) = true ∧
      [35, 36, 37, 39, 40, 41, 42, 43, 44, 55].all (bitAt (stateWith [] 0x1FF80100 0b00#2).fpscr) = true := by
  decide +kernel

/-- Overflow with inexact, underflow with inexact. -/
theorem witness_JointExceptionBits :
    nextHas (exec (.dmul 3 1 1 false) (holding .dfp64 [(1, .fin false 9 369)] 0 0))
      (fun t => newlySet (holding .dfp64 [(1, .fin false 9 369)] 0 0) t 35 &&
        newlySet (holding .dfp64 [(1, .fin false 9 369)] 0 0) t 38) = true ∧
    nextHas (exec (.dmul 3 1 1 false) (holding .dfp64 [(1, .fin false 9 (-398))] 0 0))
      (fun t => newlySet (holding .dfp64 [(1, .fin false 9 (-398))] 0 0) t 36 &&
        newlySet (holding .dfp64 [(1, .fin false 9 (-398))] 0 0) t 38) = true := by
  decide +kernel

/-- VXSNAN with VXVC, VXSNAN with VXCVI. -/
theorem witness_JointExceptionBits_invalid :
    nextHas (exec (.dcmpo 0 1 1) (holding .dfp64 [(1, .snan false 5)] 0 0))
      (fun t => newlySet (holding .dfp64 [(1, .snan false 5)] 0 0) t 39 &&
        newlySet (holding .dfp64 [(1, .snan false 5)] 0 0) t 44) = true ∧
    nextHas (exec (.dctfix 3 1 false) (holding .dfp64 [(1, .snan false 5)] 0 0))
      (fun t => newlySet (holding .dfp64 [(1, .snan false 5)] 0 0) t 39 &&
        newlySet (holding .dfp64 [(1, .snan false 5)] 0 0) t 55) = true := by
  decide +kernel

/-- Infinity times zero with VE = 1: VXIMZ is caused with the bit 0 and with the bit 1 before. -/
theorem witness_EnabledInvalidSuppresses :
    isCompareOrTest (.dmul 3 1 2 true) = false ∧
    [0x80, 0xE0100080].all (fun v =>
      bitAt (holding .dfp64 [(1, .inf true 0)] v 0b11#2).fpscr 56 &&
      invalidBits.any (causes (.dmul 3 1 2 true) (holding .dfp64 [(1, .inf true 0)] v 0b11#2)) &&
      nextHas (exec (.dmul 3 1 2 true) (holding .dfp64 [(1, .inf true 0)] v 0b11#2)) (fun _ => true)) = true := by
  decide +kernel

theorem witness_FormatRoundTrip :
    (Dfp.fin true (10 ^ 34 - 1) 6111).fits .dfp128 = true ∧ (Dfp.fin false 0 (-6176)).fits .dfp128 = true ∧
      (Dfp.fin true (10 ^ 16 - 1) 369).fits .dfp64 = true ∧ (Dfp.snan true 999999).fits .dfp32 = true ∧
      2 ^ 64 - 1 < 2 ^ Format.dfp64.width := by
  decide +kernel

/-- The largest subnormal and the smallest normal number of DFP32, and a DRN. -/
theorem witness_StatusRegisterTables :
    slice 0x700000000#64 29 31 = 0b111#3 ∧
      finValue false 999999 (-101) < (10 : ℚ) ^ (Format.dfp32.xmin + Format.dfp32.prec - 1) ∧
      (10 : ℚ) ^ (Format.dfp32.xmin + Format.dfp32.prec - 1) ≤ finValue false 1000000 (-101) := by
  refine ⟨by decide, ?_, ?_⟩ <;> norm_num [finValue, Format.xmin, Format.bias, Format.prec]

/-- One inexact rounding in every mode, two of them ties. -/
theorem witness_RoundIntByMode :
    [RMode.rne, .rtz, .rtpi, .rtmi, .rnaz, .rntz, .rafz, .rfsp].all
      (fun m => (roundInt m false 25 10).inexact && (roundInt m true 50 100).inexact) = true ∧ 2 * (25 % 10) = 10 := by
  decide +kernel

/-- The smallest precision; a value just below and one just above a power of ten. -/
theorem witness_RoundPToPrecision :
    roundP 1 .rne false { num := 96, den := 1, exp := 0 } = { c := 1, e := 2, inexact := true, incremented := true } ∧
      roundP 7 .rtz true { num := 1, den := 3, exp := 0 } =
        { c := 3333333, e := -7, inexact := true, incremented := false } := by
  decide +kernel

theorem witness_DeliverFitsFormat :
    (deliver .dfp64 369 false { num := 1, den := 3, exp := 0 } 0 .rne 576 0).forceNormal = false ∧
      (deliver .dfp64 369 false { num := 5, den := 1, exp := 0 } 0 .rne 576 0).fi = false := by
  decide +kernel

theorem witness_TinyValueDisabled :
    Mag.value { num := 999999, den := 1, exp := -101 } < (10 : ℚ) ^ (Format.dfp32.xmin + Format.dfp32.prec - 1) ∧
      bitAt 0x0#64 58 = false := by
  refine ⟨?_, by decide⟩
  norm_num [Mag.value, Format.xmin, Format.bias, Format.prec]

theorem witness_WrappedResults :
    (RoundsToDigits Format.dfp32.prec .rtz false (Mag.value { num := 1, den := 1, exp := 97 }) 1000000 91 ∧
        Format.dfp32.xmax < 91) ∧
      bitAt 0x40#64 57 = true ∧
      Mag.value { num := 1, den := 3, exp := -101 } < (10 : ℚ) ^ (Format.dfp32.xmin + Format.dfp32.prec - 1) ∧
      bitAt 0x20#64 58 = true := by
  refine ⟨⟨⟨91, 1000000, ?_, ?_, Or.inl ?_, ?_⟩, by decide⟩, by decide, ?_, by decide⟩ <;>
    norm_num [Mag.value, Format.xmin, Format.bias, Format.prec]

/-- 12E1 - 3E0 at both formats' operands, UE = 0, everything else enabled. -/
theorem witness_ExactSum :
    (Instr.dsub 1 1 2 false).wellFormed = true ∧
      sourceDfp .dfp64 (holding .dfp64 [(1, .fin true 12 369), (2, .fin false 3 368)] 0xD8 0b11#2) 1 = .fin true 12 369 ∧
      sourceDfp .dfp64 (holding .dfp64 [(1, .fin true 12 369), (2, .fin false 3 368)] 0xD8 0b11#2) 2 = .fin false 3 368 ∧
      (-1) * ((12 * 10 ^ (369 - min 369 368 : Int).toNat : Nat) : Int) +
        (-1) * ((3 * 10 ^ (368 - min 369 368 : Int).toNat : Nat) : Int) = -123 ∧
      (-123 : Int).natAbs < 10 ^ 16 ∧
      bitAt (holding .dfp64 [(1, .fin true 12 369), (2, .fin false 3 368)] 0xD8 0b11#2).fpscr 58 = false := by
  decide +kernel

theorem witness_ZeroSum :
    (Instr.dsubq 2 0 2 false).wellFormed = true ∧
      sourceDfp .dfp128 (holding .dfp128 [(0, .fin true 10 0), (2, .fin true 1 1)] 0x300000000 0) 0 = .fin true 10 0 ∧
      sourceDfp .dfp128 (holding .dfp128 [(0, .fin true 10 0), (2, .fin true 1 1)] 0x300000000 0) 2 = .fin true 1 1 ∧
      10 * 10 ^ (0 - min 0 1 : Int).toNat = 1 * 10 ^ (1 - min 0 1 : Int).toNat ∧ (true ≠ (true ^^ true)) := by
  decide +kernel

/-- The largest exponent, and a zero product whose ideal exponent is out of range. -/
theorem witness_ExactProduct :
    sourceDfp .dfp64 (holding .dfp64 [(1, .fin true 7 369), (2, .fin false 8 0)] 0xD8 0) 1 = .fin true 7 369 ∧
      sourceDfp .dfp64 (holding .dfp64 [(1, .fin true 7 369), (2, .fin false 8 0)] 0xD8 0) 2 = .fin false 8 0 ∧
      7 * 8 < 10 ^ Format.dfp64.prec ∧ 369 + 0 ≤ Format.dfp64.xmax ∧
      sourceDfp .dfp64 (holding .dfp64 [(1, .fin true 7 369), (2, .fin false 0 369)] 0xF8 0) 2 = .fin false 0 369 := by
  decide +kernel

theorem witness_ExactQuotient :
    sourceDfp .dfp128 (holding .dfp128 [(0, .fin false (7 * 3) (-6176)), (2, .fin true 3 0)] 0xD8 0) 0 =
        .fin false (7 * 3) (-6176) ∧
      sourceDfp .dfp128 (holding .dfp128 [(0, .fin false (7 * 3) (-6176)), (2, .fin true 3 0)] 0xD8 0) 2 = .fin true 3 0 ∧
      Format.dfp128.xmin ≤ -6176 - 0 ∧
      sourceDfp .dfp128 (holding .dfp128 [(0, .fin false (0 * 3) (-6176)), (2, .fin true 3 5)] 0xF8 0) 0 =
        .fin false (0 * 3) (-6176) := by
  decide +kernel

/-- A negative quotient, product and difference, every exception enabled. -/
theorem witness_ArithmeticRounds :
    sourceDfp .dfp64 (holding .dfp64 [(1, .fin true 7 100), (2, .fin false 3 (-100))] 0x7000000F8 0b11#2) 1 =
        .fin true 7 100 ∧
      sourceDfp .dfp64 (holding .dfp64 [(1, .fin true 7 100), (2, .fin false 3 (-100))] 0x7000000F8 0b11#2) 2 =
        .fin false 3 (-100) ∧
      (Instr.ddivq 30 30 0 true).wellFormed = true ∧ finValue true 7 100 / finValue false 3 (-100) < 0 ∧
      finValue true 7 100 * finValue false 3 (-100) < 0 ∧ finValue true 7 100 - finValue false 3 (-100) < 0 := by
  refine ⟨by decide +kernel, by decide +kernel, by decide, ?_, ?_, ?_⟩ <;> norm_num [finValue]

/-- The cases of a delivery where they meet: below 10^(Xmax + p) the exponent is at most Xmax, at it no longer; Nmin is not
tiny, the largest subnormal number is. -/
theorem witness_ArithmeticRounds_cases :
    RoundsToDigits Format.dfp32.prec .rfsp true (finValue false 9999999 90) 9999999 90 ∧ (90 : Int) ≤ Format.dfp32.xmax ∧
      RoundsToDigits Format.dfp32.prec .rfsp true (finValue false 10000000 90) 1000000 91 ∧
      Format.dfp32.xmax < (91 : Int) ∧
      (10 : ℚ) ^ (Format.dfp32.xmin + Format.dfp32.prec - 1) ≤ finValue false 1000000 (-101) ∧
      finValue false 999999 (-101) < (10 : ℚ) ^ (Format.dfp32.xmin + Format.dfp32.prec - 1) := by
  refine ⟨⟨90, 9999999, ?_, ?_, Or.inl ?_, ?_⟩, by decide, ⟨91, 1000000, ?_, ?_, Or.inl ?_, ?_⟩, by decide, ?_, ?_⟩ <;>
    norm_num [finValue, Format.xmin, Format.bias, Format.prec]

/-- Both settings of ZE, in Precise and in Ignore Exceptions Mode. -/
theorem witness_ZeroDivideActions :
    sourceDfp .dfp64 (holding .dfp64 [(1, .fin true 1 0), (2, .fin false 0 0)] 0x10 0b11#2) 1 = .fin true 1 0 ∧
      sourceDfp .dfp64 (holding .dfp64 [(1, .fin true 1 0), (2, .fin false 0 0)] 0x10 0b11#2) 2 = .fin false 0 0 ∧
      bitAt (holding .dfp64 [(1, .fin true 1 0), (2, .fin false 0 0)] 0x10 0b11#2).fpscr 59 = true ∧
      bitAt (holding .dfp64 [(1, .fin true 1 0), (2, .fin false 0 0)] 0xE8 0b00#2).fpscr 59 = false := by
  decide +kernel

/-- Infinities of both signs, a zero and a nonzero number. -/
theorem witness_InfinityArithmetic :
    (Instr.ddivq 30 0 2 true).wellFormed = true ∧
      sourceDfp .dfp64 (holding .dfp64 [(1, .inf true 9), (2, .inf false 0), (3, .fin true 0 369)] 0xF8 0b11#2) 1 =
        .inf true 9 ∧
      sourceDfp .dfp64 (holding .dfp64 [(1, .inf true 9), (2, .inf false 0), (3, .fin true 0 369)] 0xF8 0b11#2) 2 =
        .inf false 0 ∧
      sourceDfp .dfp64 (holding .dfp64 [(1, .inf true 9), (2, .inf false 0), (3, .fin true 0 369)] 0xF8 0b11#2) 3 =
        .fin true 0 369 ∧
      sourceDfp .dfp128 (holding .dfp128 [(0, .fin true 1 (-6176)), (2, .inf false 0)] 0x80 0) 0 = .fin true 1 (-6176) ∧
      true = (false ^^ true) ∧ true ≠ (true ^^ true) := by
  decide +kernel

theorem witness_NaNPropagation :
    sourceDfp .dfp64 (holding .dfp64 [(1, .qnan true 7), (2, .snan false 9)] 0 0) 1 = .qnan true 7 ∧
      sourceDfp .dfp64 (holding .dfp64 [(1, .qnan true 7), (2, .snan false 9)] 0 0) 2 = .snan false 9 ∧
      (Instr.dqua 1 1 2 3 true).wellFormed = true ∧
      sourceDfp .dfp128 (holding .dfp128 [(0, .fin true 7 0), (2, .qnan false 9)] 0x80 0) 2 = .qnan false 9 ∧
      (Dfp.fin true 7 0).isSNaN = false ∧ (Dfp.qnan false 9).isSNaN = false := by
  decide +kernel

theorem witness_ProductOverflowDisabled :
    sourceDfp .dfp64 (holding .dfp64 [(1, .fin true (10 ^ 15) 369), (2, .fin false 10 0)] 0x300000000 0) 1 =
        .fin true (10 ^ 15) 369 ∧
      sourceDfp .dfp64 (holding .dfp64 [(1, .fin true (10 ^ 15) 369), (2, .fin false 10 0)] 0x300000000 0) 2 =
        .fin false 10 0 ∧
      (10 : ℚ) ^ (Format.dfp64.xmax + Format.dfp64.prec) ≤ finValue false (10 ^ 15 * 10) (369 + 0) ∧
      noEnables 0x300000000#64 = true := by
  refine ⟨by decide +kernel, by decide +kernel, ?_, by decide⟩
  have h : (10 : ℚ) ^ 385 = 10 ^ 16 * 10 ^ 369 := by rw [← pow_add]
  norm_num [finValue, Format.xmax, Format.maxBiased, Format.bias, Format.prec]
  rw [h]
  norm_num

/-- Equal values of two forms, and infinities. -/
theorem witness_CompareByValue :
    sourceDfp .dfp64 (holding .dfp64 [(1, .fin true 10 0), (2, .fin true 1 1)] 0 0) 1 = .fin true 10 0 ∧
      sourceDfp .dfp64 (holding .dfp64 [(1, .fin true 10 0), (2, .fin true 1 1)] 0 0) 2 = .fin true 1 1 ∧
      sourceDfp .dfp128 (holding .dfp128 [(0, .inf true 0), (2, .inf false 0)] 0 0) 0 = .inf true 0 ∧
      sourceDfp .dfp128 (holding .dfp128 [(0, .inf true 0), (2, .inf false 0)] 0 0) 2 = .inf false 0 := by
  decide +kernel

theorem witness_CompareNaN :
    (sourceDfp .dfp64 (holding .dfp64 [(1, .snan true 10)] 0x80 0) 1).isSNaN = true ∧
      (sourceDfp .dfp128 (holding .dfp128 [(0, .qnan true 10)] 0 0) 0).isNaN = true ∧
      (sourceDfp .dfp128 (holding .dfp128 [(0, .qnan true 10)] 0 0) 0).isSNaN = false ∧
      (holding .dfp64 [(1, .snan true 10)] 0x80 0).feMode = 0b00#2 := by
  decide +kernel

/-- The largest subnormal and the smallest normal number; the extreme exponents. -/
theorem witness_TestDataMasks :
    sourceDfp .dfp64 (holding .dfp64 [(1, .fin true (10 ^ 15 - 1) (-398)), (2, .fin true (10 ^ 15) (-398))] 0 0) 1 =
        .fin true (10 ^ 15 - 1) (-398) ∧
      sourceDfp .dfp64 (holding .dfp64 [(1, .fin true (10 ^ 15 - 1) (-398)), (2, .fin true (10 ^ 15) (-398))] 0 0) 2 =
        .fin true (10 ^ 15) (-398) ∧
      sourceDfp .dfp128 (holding .dfp128 [(0, .fin false 0 6111)] 0 0) 0 = .fin false 0 6111 := by
  decide +kernel

theorem witness_TestExponents :
    (sourceDfp .dfp64 (holding .dfp64 [(1, .qnan true 3), (2, .inf true 0)] 0 0) 1).isNaN ≠
        (sourceDfp .dfp64 (holding .dfp64 [(1, .qnan true 3), (2, .inf true 0)] 0 0) 2).isNaN ∧
      sourceDfp .dfp64 (holding .dfp64 [(1, .fin true 3 369), (2, .fin false 0 (-398))] 0 0) 2 =
        .fin false 0 (-398) := by
  decide +kernel

/-- k = 63 and k = 0, with the coefficients 0 and 10^16 - 1. -/
theorem witness_TestSignificances :
    ((readFpr (stateWith [(1, 0xFFFFFFFFFFFFFFFF)] 0 0) 1).extractLsb' 0 6).toNat = 63 ∧
      ((readFpr (stateWith [(1, 0xFFFFFFFFFFFFFFC0)] 0 0) 1).extractLsb' 0 6).toNat = 0 ∧
      sourceDfp .dfp64 (holding .dfp64 [(2, .fin true (10 ^ 16 - 1) 0)] 0 0) 2 = .fin true (10 ^ 16 - 1) 0 := by
  decide +kernel

/-- The three clauses, every exception enabled: te = se, te < se with too many digits, se < te. -/
theorem witness_QuantizeFinite :
    (0b10000#5).toInt = -16 ∧ (0b01111#5).toInt = 15 ∧ (Instr.dquaiq 30 0b10000#5 28 3 true).wellFormed = true ∧
      sourceDfp .dfp64 (holding .dfp64 [(2, .fin true 5 (-16))] 0xF8 0b11#2) 2 = .fin true 5 (-16) ∧
      sourceDfp .dfp64 (holding .dfp64 [(2, .fin true 1 0)] 0xF8 0b11#2) 2 = .fin true 1 0 ∧
      10 ^ Format.dfp64.prec ≤ 1 * 10 ^ (0 - -16 : Int).toNat := by
  decide +kernel

/-- k = number of digits, and one digit to lose: 60E368 gives 6E369, 99E369 has no form of one digit. -/
theorem witness_ReroundFinite :
    ((readFpr (holding .dfp64 [(2, .fin true 99 369)] 0 0 |>.setFpr 1 2) 1).extractLsb' 0 6).toNat = 2 ∧
      ((readFpr (holding .dfp64 [(2, .fin true 99 369)] 0 0 |>.setFpr 1 1) 1).extractLsb' 0 6).toNat = 1 ∧
      sourceDfp .dfp64 (holding .dfp64 [(2, .fin true 99 369)] 0 0 |>.setFpr 1 1) 2 = .fin true 99 369 ∧
      sourceDfp .dfp64 (holding .dfp64 [(2, .fin true 60 368)] 0 0 |>.setFpr 1 1) 2 = .fin true 60 368 ∧
      99 < 10 ^ 2 ∧ 10 ^ 1 ≤ 60 := by
  decide +kernel

/-- 6E369 is the rounding of 60E368 to one digit, at the largest exponent. -/
theorem witness_ReroundFinite_rounds :
    RoundsToDigits 1 .rne true (finValue false 60 368) 6 369 ∧ (369 : Int) ≤ Format.dfp64.xmax := by
  have h : (10 : ℚ) ^ (369 : Int) = 10 * 10 ^ (368 : Int) := by
    rw [show (369 : Int) = 368 + 1 from rfl, zpow_add_one₀ (by norm_num)]
    ring
  have hp : (0 : ℚ) < 10 ^ (368 : Int) := zpow_pos (by norm_num) _
  refine ⟨⟨369, 6, ?_, ?_, Or.inl ?_, by norm_num⟩, by decide⟩ <;>
  · unfold finValue
    rw [h]
    generalize (10 : ℚ) ^ (368 : Int) = y at *
    field_simp
    norm_num

theorem witness_RoundToFpInteger :
    (Instr.drintxq 30 true 28 3 true).wellFormed = true ∧
      sourceDfp .dfp64 (holding .dfp64 [(2, .fin true 5 0), (3, .fin true 5 (-1))] 0xF8 0b11#2) 2 = .fin true 5 0 ∧
      sourceDfp .dfp64 (holding .dfp64 [(2, .fin true 5 0), (3, .fin true 5 (-1))] 0xF8 0b11#2) 3 =
        .fin true 5 (-1) := by
  decide +kernel

/-- Infinities of both signs, a quiet and a signaling NaN, and a finite number. -/
theorem witness_QuantumSpecials :
    (Instr.dquaiq 30 16 28 3 true).wellFormed = true ∧
      sourceDfp .dfp64 (holding .dfp64 [(1, .inf true 0), (2, .inf false 7), (3, .fin true 0 369)] 0x80 0) 1 =
        .inf true 0 ∧
      sourceDfp .dfp64 (holding .dfp64 [(1, .inf true 0), (2, .inf false 7), (3, .fin true 0 369)] 0x80 0) 2 =
        .inf false 7 ∧
      sourceDfp .dfp64 (holding .dfp64 [(1, .inf true 0), (2, .inf false 7), (3, .fin true 0 369)] 0x80 0) 3 =
        .fin true 0 369 ∧
      sourceDfp .dfp128 (holding .dfp128 [(0, .qnan true 5), (2, .snan false 6)] 0 0) 0 = .qnan true 5 ∧
      sourceDfp .dfp128 (holding .dfp128 [(0, .qnan true 5), (2, .snan false 6)] 0 0) 2 = .snan false 6 := by
  decide +kernel

theorem witness_Widening :
    sourceDfp .dfp64 (holding .dfp64 [(3, .inf true 9), (4, .snan true 8)] 0x80 0) 3 = .inf true 9 ∧
      (Dfp.inf true 9).isSNaN = false ∧ (6 : FReg).val % 2 = 0 ∧
      sourceDfp .dfp64 (holding .dfp64 [(3, .inf true 9), (4, .snan true 8)] 0x80 0) 4 = .snan true 8 := by
  decide +kernel

/-- Values that fit, at the ends of the range, and a zero out of range. -/
theorem witness_NarrowFinite :
    sourceDfp .dfp64 (holding .dfp64 [(2, .fin true 9999999 90), (3, .fin true 0 369)] 0xD8 0) 2 = .fin true 9999999 90 ∧
      (Dfp.fin true 9999999 90).fits .dfp32 = true ∧
      sourceDfp .dfp64 (holding .dfp64 [(2, .fin true 9999999 90), (3, .fin true 0 369)] 0xD8 0) 3 = .fin true 0 369 ∧
      sourceDfp .dfp128 (holding .dfp128 [(2, .fin true 1 (-398))] 0xD8 0) 2 = .fin true 1 (-398) ∧
      (Dfp.fin true 1 (-398)).fits .dfp64 = true ∧ bitAt 0xD8#64 58 = false ∧
      (Instr.drdpq 30 2 true).wellFormed = true := by
  decide +kernel

theorem witness_NarrowSpecials :
    sourceDfp .dfp64 (holding .dfp64 [(2, .snan true 1234567)] 0x80 0) 2 = .snan true 1234567 ∧
      sourceDfp .dfp128 (holding .dfp128 [(2, .qnan true (10 ^ 16))] 0x80 0) 2 = .qnan true (10 ^ 16) ∧
      sourceDfp .dfp128 (holding .dfp128 [(2, .inf true 3)] 0 0) 2 = .inf true 3 ∧
      sourceDfp .dfp128 (holding .dfp128 [(2, .snan true 5)] 0 0) 2 = .snan true 5 ∧ bitAt 0#64 56 = false := by
  decide +kernel

/-- Hypotheses of `FromFixed`: an even target. -/
theorem witness_FromFixed : (30 : FReg).val % 2 = 0 := by decide

/-- 2^63, its negative and an infinity. -/
theorem witness_ToFixed :
    (Instr.dctfixq 31 2 true).wellFormed = true ∧ bitAt 0x78#64 56 = false ∧
      sourceDfp .dfp128 (holding .dfp128 [(2, .fin true (2 ^ 63) 0)] 0x78 0b11#2) 2 = .fin true (2 ^ 63) 0 ∧
      sourceDfp .dfp128 (holding .dfp128 [(2, .fin false (2 ^ 63) 0)] 0x78 0b11#2) 2 = .fin false (2 ^ 63) 0 ∧
      sourceDfp .dfp64 (holding .dfp64 [(2, .inf true 0), (3, .snan false 1)] 0x78 0) 2 = .inf true 0 ∧
      (sourceDfp .dfp64 (holding .dfp64 [(2, .inf true 0), (3, .snan false 1)] 0x78 0) 3).isNaN = true := by
  decide +kernel

/-- 2^63 - 0.5, and that it rounds to 2^63 - 1 toward 0 and to 2^63, out of range for a plus sign, to nearest. -/
theorem witness_ToFixedRounds :
    sourceDfp .dfp128 (holding .dfp128 [(2, .fin true (2 ^ 63 * 10 - 5) (-1))] 0xF8 0b11#2) 2 =
        .fin true (2 ^ 63 * 10 - 5) (-1) ∧
      RoundsTo .rtz false (finValue false (2 ^ 63 * 10 - 5) (-1)) (2 ^ 63 - 1) ∧
      RoundsTo .rne false (finValue false (2 ^ 63 * 10 - 5) (-1)) (2 ^ 63) := by
  refine ⟨by decide +kernel, Or.inr ⟨?_, ?_, ?_, ?_⟩, Or.inr ⟨?_, ?_, ?_, ?_, ?_, ?_⟩⟩ <;> norm_num [finValue]

/-- Figure 35 of 46_conversion.md R306, rows (MP < b; q = MP), (MP < b; q > MP) and (MN <= b < 0; n incremented, q = MN),
of 2^63 - 0.5, with XE = 1 in Precise Mode. -/
theorem test_dctfixq_range_of_the_rounded :
    nextHas (exec (.dctfixq 4 2 false) (holding .dfp128 [(2, .fin false (2 ^ 63 * 10 - 5) (-1))] 0x100000008 0b11#2))
        (fun t => readFpr t 4 == 0x7FFFFFFFFFFFFFFF && t.fpscr == 0x1C2020008 && t.trapAt == some 0) = true ∧
      nextHas (exec (.dctfixq 4 2 false) (holding .dfp128 [(2, .fin false (2 ^ 63 * 10 - 5) (-1))] 0x8 0b11#2))
        (fun t => readFpr t 4 == 0x7FFFFFFFFFFFFFFF && t.fpscr == 0xA0000108 && t.pc == 4) = true ∧
      nextHas (exec (.dctfixq 4 2 false) (holding .dfp128 [(2, .fin true (2 ^ 63 * 10 - 5) (-1))] 0 0b11#2))
        (fun t => readFpr t 4 == 0x8000000000000000 && t.fpscr == 0x82060000 && t.pc == 4) = true := by
  decide +kernel

theorem witness_DecodeToBcd :
    (Instr.ddedpdq 30 true true 0 true).wellFormed = true ∧
      sourceDfp .dfp128 (holding .dfp128 [(0, .snan true (10 ^ 33 - 1))] 0 0) 0 = .snan true (10 ^ 33 - 1) := by
  decide +kernel

/-- The extreme exponents and the three kinds of special. -/
theorem witness_ExtractExponent :
    (Instr.dxexq 31 30 true).wellFormed = true ∧
      sourceDfp .dfp64 (holding .dfp64 [(1, .fin true 0 (-398)), (2, .fin false 3 369)] 0 0) 1 = .fin true 0 (-398) ∧
      sourceDfp .dfp64 (holding .dfp64 [(1, .fin true 0 (-398)), (2, .fin false 3 369)] 0 0) 2 = .fin false 3 369 ∧
      sourceDfp .dfp64 (holding .dfp64 [(1, .inf true 4), (2, .qnan false 0), (3, .snan true 9)] 0 0) 1 = .inf true 4 ∧
      sourceDfp .dfp64 (holding .dfp64 [(1, .inf true 4), (2, .qnan false 0), (3, .snan true 9)] 0 0) 2 =
        .qnan false 0 ∧
      sourceDfp .dfp64 (holding .dfp64 [(1, .inf true 4), (2, .qnan false 0), (3, .snan true 9)] 0 0) 3 =
        .snan true 9 := by
  decide +kernel

/-- The largest coefficient and the largest payload, at the largest shift. -/
theorem witness_ShiftCoefficients :
    (Instr.dscliq 30 30 63 true).wellFormed = true ∧ (Instr.dscriq 30 30 63 true).wellFormed = true ∧
      sourceDfp .dfp128 (holding .dfp128 [(30, .fin true (10 ^ 34 - 1) 0)] 0 0) 30 = .fin true (10 ^ 34 - 1) 0 ∧
      sourceDfp .dfp128 (holding .dfp128 [(30, .qnan true (10 ^ 33 - 1))] 0 0) 30 = .qnan true (10 ^ 33 - 1) := by
  decide +kernel

/-- 25 unsigned, -25 signed, an invalid digit and an invalid sign code. -/
theorem witness_EncodeFromBcd :
    (∀ k, k < 16 → sourceBits .dfp64 (stateWith [(2, 0x25)] 0 0) 2 / 16 ^ k % 16 = 25 / 10 ^ k % 10) ∧
      (∀ k, k < 15 → sourceBits .dfp64 (stateWith [(2, 0x25D)] 0 0) 2 / 16 ^ (k + 1) % 16 = 25 / 10 ^ k % 10) ∧
      10 ≤ sourceBits .dfp64 (stateWith [(2, 0x25D)] 0 0) 2 % 16 ∧
      9 < sourceBits .dfp64 (stateWith [(2, 0x25D)] 0 0) 2 / 16 ^ 0 % 16 ∧
      sourceBits .dfp64 (stateWith [(2, 0x25)] 0 0) 2 % 16 < 10 := by
  decide +kernel

/-- FRA at both ends of the finite range and at the codes. -/
theorem witness_InsertExponent :
    (Instr.diexq 30 31 30 true).wellFormed = true ∧
      (readFpr (stateWith [(1, 767), (3, 0xFFFFFFFFFFFFFFFF)] 0 0) 1).toInt = Format.dfp64.maxBiased ∧
      (readFpr (stateWith [(1, 767), (3, 0xFFFFFFFFFFFFFFFF)] 0 0) 3).toInt = -1 ∧
      sourceDfp .dfp64 (holding .dfp64 [(2, .qnan true 77)] 0 0) 2 = .qnan true 77 := by
  decide +kernel

/-- FEX left 0, and left 1 in Precise and in an imprecise mode; an exception pending; the trapped state. -/
theorem witness_HostFpscrAccess :
    (stateWith [] 0x84000000 0b11#2).pending = false ∧
      bitAt (hostSetFpscr 0x8 0x8 (stateWith [] 0x84000000 0b11#2)).fpscr 33 = false ∧
      bitAt (hostSetFpscr 0x10 0x10 (stateWith [] 0x84000000 0b11#2)).fpscr 33 = true ∧
      bitAt (mergeFpscr 0x10 0x10 (stateWith [] 0x84000000 0b01#2).fpscr) 33 = true ∧ pendingState.pending = true ∧
      (takeTrap 0x100 (stateWith [] 0x84000000 0b11#2)).pending = false := by
  decide +kernel
end Sys2Proof.Tests
end

section
/-! Status bits of the FPSCR (10_state.md R37, R38): which exceptions one instruction causes together, and what it does with
FI and XX. Every effect either writes FI, as 1 exactly when inexact is among its exceptions, or keeps FI and does not cause
inexact; each operation that builds an effect is shown once to do one of the two. -/

namespace Sys2Proof.Machine

/-! ### The exceptions and the FI of an effect -/

/-- The exceptions an effect reports, none when it calls no `Commit`. -/
def Effect.exceptions (e : Effect) : List Exc := e.commit.elim [] Commit.exc

/-- The FI an effect writes; `none` where FI is not affected. -/
def Effect.newFi (e : Effect) : Option Bool := e.commit.bind Commit.fi

/-- A status bit after an effect. -/
theorem bitAt_fpscrAfter_status (e : Effect) (v : BitVec 64) (j : Nat) (hj : j ∈ statusBits) :
    bitAt (e.fpscrAfter v) j =
      (bitAt v j || e.exceptions.any (fun x => x.bit == j) || (j == 38 && e.newFi.getD false)) := by
  unfold Effect.fpscrAfter Effect.exceptions Effect.newFi
  cases e.commit with
  | none => simp
  | some c => exact bitAt_commitFpscr_status c v j hj

/-- FI after `Commit` (41_dfp_execution_model.md R205). -/
theorem bitAt_commitFpscr_fi (c : Commit) (v : BitVec 64) :
    bitAt (commitFpscr c v) 46 = c.fi.getD (bitAt v 46) := by
  have hexc : c.exc.any (fun x => x.bit == 46) = false :=
    List.any_eq_false.mpr fun x _ => by cases x <;> decide
  unfold commitFpscr
  rw [bitAt_recomputeSummaries_out _ _ (by omega) (by omega), bitAt_writeFX_out _ _ _ (by omega) (by omega),
    bitAt_writeFPCC_out _ _ _ (by omega) (by omega), bitAt_writeFPRF_out _ _ _ (by omega) (by omega),
    bitAt_writeFR _ _ _ (by omega), if_neg (by omega), bitAt_writeFI _ _ _ (by omega), if_neg (by omega), if_pos rfl,
    bitAt_setExcBits _ _ _ (by omega), hexc, Bool.or_false]

/-- FI after an effect. -/
theorem bitAt_fpscrAfter_fi (e : Effect) (v : BitVec 64) :
    bitAt (e.fpscrAfter v) 46 = e.newFi.getD (bitAt v 46) := by
  unfold Effect.fpscrAfter Effect.newFi
  cases e.commit with
  | none => rfl
  | some c => exact bitAt_commitFpscr_fi c v

/-! ### The two ways an effect treats FI -/

/-- The exceptions are none, one alone, or one of the given lists. -/
def AloneOr (joint : List (List Exc)) (exc : List Exc) : Prop := exc.length ≤ 1 ∨ exc ∈ joint

/-- The effect writes FI, 1 exactly when it causes inexact (10_state.md R37), and its exceptions are alone or joint. -/
structure Effect.WritesFi (joint : List (List Exc)) (e : Effect) : Prop where
  fi : e.newFi = some (decide (Exc.xx ∈ e.exceptions))
  together : AloneOr joint e.exceptions

/-- The effect does not affect FI nor cause inexact (10_state.md R37), and its exceptions are alone or joint. -/
structure Effect.KeepsFi (joint : List (List Exc)) (e : Effect) : Prop where
  fi : e.newFi = none
  notInexact : Exc.xx ∉ e.exceptions
  together : AloneOr joint e.exceptions

/-- XX is the bit of no exception but inexact. -/
theorem any_bit_eq_xx (exc : List Exc) : exc.any (fun x => x.bit == 38) = decide (Exc.xx ∈ exc) := by
  have hxx : ∀ x : Exc, (x.bit == 38) = decide (x = .xx) := by intro x; cases x <;> decide
  rw [Bool.eq_iff_iff]
  simp [hxx]

/-- Where FI is written, XX is the old XX ORed with the new FI (10_state.md R37). -/
theorem Effect.WritesFi.xx {joint : List (List Exc)} {e : Effect} (h : e.WritesFi joint) (v : BitVec 64) :
    bitAt (e.fpscrAfter v) 38 = (bitAt v 38 || bitAt (e.fpscrAfter v) 46) := by
  rw [bitAt_fpscrAfter_status _ _ _ (by decide), bitAt_fpscrAfter_fi, h.fi, any_bit_eq_xx]
  simp

/-- Where FI is kept, XX stays too (10_state.md R37). -/
theorem Effect.KeepsFi.xx {joint : List (List Exc)} {e : Effect} (h : e.KeepsFi joint) (v : BitVec 64) :
    bitAt (e.fpscrAfter v) 38 = bitAt v 38 ∧ bitAt (e.fpscrAfter v) 46 = bitAt v 46 := by
  rw [bitAt_fpscrAfter_status _ _ _ (by decide), bitAt_fpscrAfter_fi, h.fi, any_bit_eq_xx]
  simp [h.notInexact]

/-! ### Delivered results -/

/-- The exceptions `Deliver` can cause together: overflow or underflow, with inexact (10_state.md R38). -/
def deliverJoint : List (List Exc) := [[.ox, .xx], [.ux, .xx]]

/-- Inexact is the one exception of `xxIf`. -/
@[simp] theorem mem_xxIf (x : Exc) (b : Bool) : x ∈ xxIf b ↔ b = true ∧ x = .xx := by
  cases b <;> simp [xxIf]

/-- `xxIf` holds at most one exception. -/
theorem length_xxIf_le (b : Bool) : (xxIf b).length ≤ 1 := by cases b <;> decide

/-- A delivered result has FI = 1 exactly when it causes inexact, which it causes alone or with overflow or underflow. -/
structure Delivered.Reports (r : Delivered) : Prop where
  fi : r.fi = decide (Exc.xx ∈ r.exc)
  together : AloneOr deliverJoint r.exc

/-- A wrapped result reports overflow or underflow, with inexact when it is inexact (R196, R198). -/
theorem deliverWrapped_reports (F : Format) (hi : Int) (s : Bool) (v : Mag) (ideal : Int) (mode : RMode) (shift : Int)
    {x : Exc} (hx : x = .ox ∨ x = .ux) : (deliverWrapped F hi s v ideal mode shift x).Reports := by
  constructor
  · rcases hx with rfl | rfl <;> simp [deliverWrapped]
  · simp only [deliverWrapped]
    generalize (roundP F.prec mode s (v.scale shift)).inexact = b
    rcases hx with rfl | rfl <;> cases b <;> simp [AloneOr, deliverJoint, xxIf]

/-- A disabled overflow reports overflow and inexact (R197). -/
theorem deliverOverflow_reports (F : Format) (s : Bool) (mode : RMode) : (deliverOverflow F s mode).Reports := by
  unfold deliverOverflow
  split <;> exact ⟨by simp, .inr (by simp [deliverJoint])⟩

/-- A tiny result with underflow disabled reports underflow and inexact, or nothing (R198). -/
theorem deliverTiny_reports (F : Format) (s : Bool) (v : Mag) (ideal : Int) (mode : RMode) :
    (deliverTiny F s v ideal mode).Reports := by
  simp only [deliverTiny]
  split
  · exact ⟨by simp, .inr (by simp [deliverJoint])⟩
  · exact ⟨by simp, .inl (by simp)⟩

/-- A normal result reports inexact when it is inexact (R180). -/
theorem deliverNormal_reports (F : Format) (s : Bool) (q : RoundedP) (ideal : Int) :
    (deliverNormal F s q ideal).Reports :=
  ⟨by simp [deliverNormal], .inl (length_xxIf_le _)⟩

/-- Every result of `Deliver` reports inexact as R37 and R38 say. -/
theorem deliver_reports (F : Format) (hi : Int) (s : Bool) (v : Mag) (ideal : Int) (mode : RMode) (alpha : Int)
    (fpscr : BitVec 64) : (deliver F hi s v ideal mode alpha fpscr).Reports := by
  rcases deliver_cases F hi s v ideal mode alpha fpscr with
    ⟨-, -, h⟩ | ⟨-, -, h⟩ | ⟨-, -, -, h⟩ | ⟨-, -, -, h⟩ | ⟨-, -, h⟩ <;> rw [h]
  · exact deliverWrapped_reports F hi s v ideal mode (-alpha) (.inl rfl)
  · exact deliverOverflow_reports F s mode
  · exact deliverWrapped_reports F hi s v ideal mode alpha (.inr rfl)
  · exact deliverTiny_reports F s v ideal mode
  · exact deliverNormal_reports F s _ ideal

/-- Narrowing a finite number reports inexact as `Deliver` does (R309). -/
theorem narrowFinite_reports (Fs Ft : Format) (alpha : Int) (sg : Bool) (c : Nat) (e : Int) (fpscr : BitVec 64) :
    (narrowFinite Fs Ft alpha sg c e fpscr).Reports := by
  unfold narrowFinite
  split
  · exact ⟨by simp, .inl (by simp)⟩
  · exact deliver_reports ..

/-! ### The operations that build effects -/

section
variable {joint : List (List Exc)} {F : Format} {frt : FReg} {rc : Bool} {fpscr : BitVec 64}

/-- At most one exception, not inexact, reported with FI = 0. -/
theorem writesFi_of_zero {e : Effect} (hfi : e.newFi = some false) (hxx : Exc.xx ∉ e.exceptions)
    (hlen : e.exceptions.length ≤ 1) : e.WritesFi joint :=
  ⟨by simp [hfi, hxx], .inl hlen⟩

/-- The exceptions of an invalid operation: one, and not inexact. -/
def LoneInvalid (exc : List Exc) : Prop := ∃ x : Exc, x.kind = .invalid ∧ exc = [x]

theorem LoneInvalid.notInexact {exc : List Exc} (h : LoneInvalid exc) : Exc.xx ∉ exc := by
  obtain ⟨x, hx, rfl⟩ := h
  intro hmem
  rw [← List.mem_singleton.mp hmem] at hx
  cases hx

theorem LoneInvalid.length_le {exc : List Exc} (h : LoneInvalid exc) : exc.length ≤ 1 := by
  obtain ⟨x, -, rfl⟩ := h
  exact le_rfl

theorem exactEffect_writesFi (d : Dfp) : (exactEffect F frt rc d).WritesFi joint :=
  writesFi_of_zero rfl List.not_mem_nil (Nat.zero_le 1)

theorem invalidEffect_writesFi {exc : List Exc} (q : Dfp) (h : LoneInvalid exc) :
    (invalidEffect F frt rc fpscr exc q).WritesFi joint := by
  unfold invalidEffect
  split <;> exact writesFi_of_zero rfl h.notInexact h.length_le

theorem zeroDivideEffect_writesFi (s : Bool) : (zeroDivideEffect F frt rc fpscr s).WritesFi joint := by
  unfold zeroDivideEffect
  split <;> exact writesFi_of_zero rfl (by decide : Exc.xx ∉ [Exc.zx]) (le_refl 1)

theorem deliveredEffect_writesFi {r : Delivered} (h : r.Reports) : (deliveredEffect F frt rc r).WritesFi deliverJoint :=
  ⟨congrArg some h.fi, h.together⟩

theorem adjustedEffect_writesFi (d : Dfp) (fi fr : Bool) : (adjustedEffect F frt rc d fi fr).WritesFi joint :=
  ⟨by simp [adjustedEffect, Effect.newFi, Effect.exceptions], .inl (length_xxIf_le fi)⟩

theorem specialNarrowEffect_writesFi (ws : List (FReg × Doubleword)) {exc : List Exc} (d : Dfp)
    (hxx : Exc.xx ∉ exc) (hlen : exc.length ≤ 1) : (specialNarrowEffect F ws rc exc d).WritesFi joint :=
  writesFi_of_zero rfl hxx hlen

theorem narrowedEffect_writesFi (Fs : Format) (ws : Dfp → List (FReg × Doubleword)) {r : Delivered} (h : r.Reports) :
    (narrowedEffect Fs F frt ws rc r).WritesFi deliverJoint :=
  ⟨congrArg some h.fi, h.together⟩

theorem plainEffect_keepsFi (ws : List (FReg × Doubleword)) : (plainEffect ws rc).KeepsFi joint :=
  ⟨rfl, List.not_mem_nil, .inl (Nat.zero_le 1)⟩

theorem convertedEffect_keepsFi (d : Dfp) : (convertedEffect F frt rc d).KeepsFi joint :=
  ⟨rfl, List.not_mem_nil, .inl (Nat.zero_le 1)⟩

theorem codeEffect_keepsFi (bf : CRField) {exc : List Exc} (code : BitVec 4) (hxx : Exc.xx ∉ exc)
    (h : AloneOr joint exc) : (codeEffect bf exc code).KeepsFi joint :=
  ⟨rfl, hxx, h⟩

/-- The tests cause no exception (44_test.md R250). -/
theorem codeEffect_nil_keepsFi (bf : CRField) (code : BitVec 4) : (codeEffect bf [] code).KeepsFi joint :=
  codeEffect_keepsFi bf code List.not_mem_nil (.inl (Nat.zero_le 1))

/-! ### Arithmetic -/

/-- An invalid operation of an action table has one exception. -/
def Action.InvalidAlone : Action → Prop
  | .invalid exc _ => LoneInvalid exc
  | .zeroDivide _ | .exact _ | .rounded _ _ _ => True

theorem nanAction_invalidAlone (a b : Dfp) : (nanAction a b).InvalidAlone := by
  unfold nanAction
  split
  · exact ⟨.vxsnan, rfl, rfl⟩
  · trivial

theorem addFinite_invalidAlone (mode : RMode) (sa : Bool) (ca : Nat) (ea : Int) (sb : Bool) (cb : Nat) (eb : Int) :
    (addFinite mode sa ca ea sb cb eb).InvalidAlone := by
  simp only [addFinite]
  split <;> trivial

theorem addTable_invalidAlone (mode : RMode) (a b : Dfp) : (addTable mode a b).InvalidAlone := by
  unfold addTable
  split
  · exact addFinite_invalidAlone ..
  · split
    · trivial
    · exact ⟨.vxisi, rfl, rfl⟩
  · trivial
  · trivial
  all_goals exact nanAction_invalidAlone _ _

theorem mulTable_invalidAlone (F : Format) (a b : Dfp) : (mulTable F a b).InvalidAlone := by
  unfold mulTable
  split
  · split <;> trivial
  · trivial
  · split
    · exact ⟨.vximz, rfl, rfl⟩
    · trivial
  · split
    · exact ⟨.vximz, rfl, rfl⟩
    · trivial
  all_goals exact nanAction_invalidAlone _ _

theorem divTable_invalidAlone (F : Format) (a b : Dfp) : (divTable F a b).InvalidAlone := by
  unfold divTable
  split
  · split
    · exact ⟨.vxzdz, rfl, rfl⟩
    · split
      · trivial
      · split <;> trivial
  · exact ⟨.vxidi, rfl, rfl⟩
  · trivial
  · trivial
  all_goals exact nanAction_invalidAlone _ _

theorem arithEffect_writesFi {act : Action} (h : act.InvalidAlone) :
    (arithEffect F frt rc fpscr act).WritesFi deliverJoint := by
  cases act with
  | invalid exc q => exact invalidEffect_writesFi q h
  | zeroDivide s => exact zeroDivideEffect_writesFi s
  | exact d => exact exactEffect_writesFi d
  | rounded s v ideal => exact deliveredEffect_writesFi (deliver_reports ..)

/-! ### Quantum adjustment -/

/-- An invalid operation of a quantum adjustment has one exception. -/
def Adjusted.InvalidAlone : Adjusted → Prop
  | .invalid exc _ => LoneInvalid exc
  | .result _ _ _ => True

theorem quantizeFinite_invalidAlone (F : Format) (te : Int) (s : Bool) (c : Nat) (se : Int) (mode : RMode) :
    (quantizeFinite F te s c se mode).InvalidAlone := by
  simp only [quantizeFinite]
  split
  · trivial
  · split
    · split
      · exact ⟨.vxcvi, rfl, rfl⟩
      · trivial
    · split <;> trivial

theorem quantize_invalidAlone (F : Format) (a b : Dfp) (mode : RMode) : (quantize F a b mode).InvalidAlone := by
  unfold quantize
  split
  · exact quantizeFinite_invalidAlone ..
  · trivial
  · exact ⟨.vxcvi, rfl, rfl⟩
  · exact ⟨.vxcvi, rfl, rfl⟩
  all_goals
    split
    · exact ⟨.vxsnan, rfl, rfl⟩
    · trivial

theorem reroundFinite_invalidAlone (F : Format) (k : Nat) (s : Bool) (c : Nat) (e : Int) (mode : RMode) :
    (reroundFinite F k s c e mode).InvalidAlone := by
  simp only [reroundFinite]
  split
  · trivial
  · generalize (if (roundInt mode s c (10 ^ (digits c - k))).n = 10 ^ k then _ else _ : Int) = e3
    split
    · exact ⟨.vxcvi, rfl, rfl⟩
    · trivial

theorem reround_invalidAlone (F : Format) (k : Nat) (b : Dfp) (mode : RMode) : (reround F k b mode).InvalidAlone := by
  cases b with
  | snan s cc => exact ⟨.vxsnan, rfl, rfl⟩
  | qnan s cc => trivial
  | inf s cc => trivial
  | fin s c e => exact reroundFinite_invalidAlone ..

theorem roundToInt_invalidAlone (b : Dfp) (mode : RMode) (withInexact : Bool) :
    (roundToInt b mode withInexact).InvalidAlone := by
  cases b with
  | snan s cc => exact ⟨.vxsnan, rfl, rfl⟩
  | qnan s cc => trivial
  | inf s cc => trivial
  | fin s c e =>
    simp only [roundToInt]
    split
    · trivial
    · split <;> trivial

theorem adjustEffect_writesFi {o : Adjusted} (h : o.InvalidAlone) :
    (adjustEffect F frt rc fpscr o).WritesFi joint := by
  cases o with
  | invalid exc q => exact invalidEffect_writesFi q h
  | result d fi fr => exact adjustedEffect_writesFi d fi fr

/-! ### Compare, conversion and format -/

/-- A compare causes nothing or VXSNAN alone and, only when ordered, VXVC alone or with VXSNAN (R241, R246). -/
theorem compareExc_cases (ordered ve : Bool) (a b : Dfp) :
    compareExc ordered ve a b = [] ∨ compareExc ordered ve a b = [.vxsnan] ∨
      ordered = true ∧ (compareExc ordered ve a b = [.vxvc] ∨ compareExc ordered ve a b = [.vxsnan, .vxvc]) := by
  unfold compareExc
  split
  · cases ordered <;> cases ve <;> simp
  · cases ordered
    · simp
    · split <;> simp

theorem compareEffect_keepsFi {ordered : Bool} (bf : CRField) (fra frb : FReg) (s : State)
    (hjoint : ordered = true → [.vxsnan, .vxvc] ∈ joint) : (compareEffect ordered F bf fra frb s).KeepsFi joint := by
  simp only [compareEffect]
  rcases compareExc_cases ordered (enabled s.fpscr .invalid) (sourceDfp F s fra) (sourceDfp F s frb) with
    h | h | ⟨hord, h | h⟩ <;> rw [h]
  · exact codeEffect_nil_keepsFi bf _
  · exact codeEffect_keepsFi bf _ (by decide) (.inl (le_refl 1))
  · exact codeEffect_keepsFi bf _ (by decide) (.inl (le_refl 1))
  · exact codeEffect_keepsFi bf _ (by decide) (.inr (hjoint hord))

theorem toDfp128Effect_writesFi (frb : FReg) (s : State) : (toDfp128Effect frt frb rc s).WritesFi joint := by
  unfold toDfp128Effect
  split
  · exact invalidEffect_writesFi _ ⟨.vxsnan, rfl, rfl⟩
  all_goals exact exactEffect_writesFi _

theorem roundToDfp32Effect_writesFi (frb : FReg) (s : State) :
    (roundToDfp32Effect frt frb rc s).WritesFi deliverJoint := by
  simp only [roundToDfp32Effect]
  split
  iterate 3 exact specialNarrowEffect_writesFi _ _ List.not_mem_nil (Nat.zero_le 1)
  exact narrowedEffect_writesFi _ _ (narrowFinite_reports ..)

theorem roundToDfp64Effect_writesFi (frb : FReg) (s : State) :
    (roundToDfp64Effect frt frb rc s).WritesFi deliverJoint := by
  have hxx : Exc.xx ∉ [Exc.vxsnan] := by decide
  simp only [roundToDfp64Effect]
  split
  · split
    · exact writesFi_of_zero rfl hxx (le_refl 1)
    · exact specialNarrowEffect_writesFi _ _ hxx (le_refl 1)
  · exact specialNarrowEffect_writesFi _ _ List.not_mem_nil (Nat.zero_le 1)
  · exact specialNarrowEffect_writesFi _ _ List.not_mem_nil (Nat.zero_le 1)
  · exact narrowedEffect_writesFi _ _ (narrowFinite_reports ..)

/-- An invalid operation of Convert To Fixed is VXCVI, with VXSNAN for a signaling NaN (R306). -/
theorem toFixed_invalid {mode : RMode} {b : Dfp} {exc : List Exc} {v : Int} (h : toFixed mode b = .invalid exc v) :
    exc = [.vxcvi] ∨ exc = [.vxcvi, .vxsnan] := by
  cases b with
  | snan s cc => cases h; exact .inr rfl
  | qnan s cc => cases h; exact .inl rfl
  | inf s cc => cases h; exact .inl rfl
  | fin s c e =>
    simp only [toFixed, fixFinite] at h
    generalize (if s = true then _ else _ : Int) = n at h
    split at h
    · cases h; exact .inl rfl
    · split at h <;> cases h
      exact .inl rfl

theorem toFixedEffect_writesFi (frb : FReg) (s : State) (hjoint : [.vxcvi, .vxsnan] ∈ joint) :
    (toFixedEffect F frt frb rc s).WritesFi joint := by
  unfold toFixedEffect
  split
  · next exc v h =>
    rcases toFixed_invalid h with rfl | rfl
    · exact writesFi_of_zero rfl (by decide : Exc.xx ∉ [Exc.vxcvi]) (le_refl 1)
    · exact ⟨rfl, .inr hjoint⟩
  · next v fi fr h => exact ⟨by simp [Effect.newFi, Effect.exceptions], .inl (length_xxIf_le fi)⟩

theorem encodeBcdEffect_writesFi (sgn : Bool) (frb : FReg) (s : State) :
    (encodeBcdEffect F frt sgn frb rc s).WritesFi joint := by
  unfold encodeBcdEffect
  split
  · exact invalidEffect_writesFi _ ⟨.vxcvi, rfl, rfl⟩
  · exact exactEffect_writesFi _
end

/-! ### Every instruction -/

/-- The lists of exceptions an instruction may cause together (10_state.md R38): beyond the ordered compares and Convert To
Fixed, no more than what `Deliver` can cause. -/
def jointExceptions : Instr → List (List Exc)
  | .dcmpo _ _ _ | .dcmpoq _ _ _ => [[.vxsnan, .vxvc]]
  | .dctfix _ _ _ | .dctfixq _ _ _ => [[.vxcvi, .vxsnan]]
  | _ => deliverJoint

/-- The instructions whose FPSCR targets hold FI write FI, every other one keeps it (10_state.md R37). -/
theorem effectOf_fi_cases (i : Instr) (s : State) :
    (46 ∈ fpscrTargets i ∧ (effectOf i s).WritesFi (jointExceptions i)) ∨
      (46 ∉ fpscrTargets i ∧ (effectOf i s).KeepsFi (jointExceptions i)) := by
  cases i with
  | dadd | daddq => exact .inl ⟨of_decide_eq_true rfl, arithEffect_writesFi (addTable_invalidAlone ..)⟩
  | dsub | dsubq => exact .inl ⟨of_decide_eq_true rfl, arithEffect_writesFi (addTable_invalidAlone ..)⟩
  | dmul | dmulq => exact .inl ⟨of_decide_eq_true rfl, arithEffect_writesFi (mulTable_invalidAlone ..)⟩
  | ddiv | ddivq => exact .inl ⟨of_decide_eq_true rfl, arithEffect_writesFi (divTable_invalidAlone ..)⟩
  | dcmpu | dcmpuq => exact .inr ⟨of_decide_eq_false rfl, compareEffect_keepsFi _ _ _ s nofun⟩
  | dcmpo | dcmpoq => exact .inr ⟨of_decide_eq_false rfl, compareEffect_keepsFi _ _ _ s fun _ => List.mem_cons_self⟩
  | dtstdc | dtstdcq | dtstdg | dtstdgq | dtstex | dtstexq | dtstsf | dtstsfq =>
    exact .inr ⟨of_decide_eq_false rfl, codeEffect_nil_keepsFi _ _⟩
  | dquai | dquaiq | dqua | dquaq =>
    exact .inl ⟨of_decide_eq_true rfl, adjustEffect_writesFi (quantize_invalidAlone ..)⟩
  | drrnd | drrndq => exact .inl ⟨of_decide_eq_true rfl, adjustEffect_writesFi (reround_invalidAlone ..)⟩
  | drintx | drintxq | drintn | drintnq =>
    exact .inl ⟨of_decide_eq_true rfl, adjustEffect_writesFi (roundToInt_invalidAlone ..)⟩
  | dctdp | dcffixq => exact .inr ⟨of_decide_eq_false rfl, convertedEffect_keepsFi _⟩
  | dctqpq => exact .inl ⟨of_decide_eq_true rfl, toDfp128Effect_writesFi _ s⟩
  | drsp => exact .inl ⟨of_decide_eq_true rfl, roundToDfp32Effect_writesFi _ s⟩
  | drdpq => exact .inl ⟨of_decide_eq_true rfl, roundToDfp64Effect_writesFi _ s⟩
  | dctfix | dctfixq => exact .inl ⟨of_decide_eq_true rfl, toFixedEffect_writesFi _ s List.mem_cons_self⟩
  | denbcd | denbcdq => exact .inl ⟨of_decide_eq_true rfl, encodeBcdEffect_writesFi _ _ s⟩
  | ddedpd | ddedpdq | dxex | dxexq | diex | diexq | dscli | dscliq | dscri | dscriq =>
    exact .inr ⟨of_decide_eq_false rfl, plainEffect_keepsFi _⟩

/-- Settles O19: every instruction either writes FI, 1 exactly when it causes inexact, or keeps FI and does not cause it. -/
theorem xxFollowsFi : Obligations.XxFollowsFi := by
  intro i s t h
  obtain ⟨-, rfl⟩ := exec_next h
  simp only [finish_fpscr]
  rcases effectOf_fi_cases i s with ⟨hin, hfi⟩ | ⟨hout, hfi⟩
  · exact ⟨fun _ => hfi.xx s.fpscr, fun hout => absurd hin hout⟩
  · exact ⟨fun hin => absurd hin hout, fun _ => hfi.xx s.fpscr⟩

/-! ### Exceptions set together -/

/-- The exceptions of an instruction are none, one alone, or those of one of its joint lists. -/
theorem exceptions_effectOf_together (i : Instr) (s : State) :
    AloneOr (jointExceptions i) (effectOf i s).exceptions := by
  rcases effectOf_fi_cases i s with ⟨-, h⟩ | ⟨-, h⟩ <;> exact h.together

/-- FI is set to 1 only with inexact (10_state.md R37). -/
theorem xx_mem_of_newFi {i : Instr} {s : State} (h : (effectOf i s).newFi.getD false = true) :
    Exc.xx ∈ (effectOf i s).exceptions := by
  rcases effectOf_fi_cases i s with ⟨-, hw⟩ | ⟨-, hk⟩
  · simpa [hw.fi] using h
  · simp [hk.fi] at h

/-- A status bit that goes from 0 to 1 is that of an exception the instruction reports. -/
theorem exists_exception_of_newlySet {i : Instr} {s : State} {j : Nat} (hj : j ∈ statusBits)
    (h : newlySet s (finish (effectOf i s) s) j = true) : ∃ x ∈ (effectOf i s).exceptions, x.bit = j := by
  simp only [newlySet, finish_fpscr, bitAt_fpscrAfter_status _ _ _ hj, Bool.and_eq_true, Bool.not_eq_true',
    Bool.or_eq_true, List.any_eq_true, beq_iff_eq] at h
  obtain ⟨hold, (hset | hexc) | ⟨rfl, hfi⟩⟩ := h
  · rw [hold] at hset
    cases hset
  · exact hexc
  · exact ⟨.xx, xx_mem_of_newFi hfi, rfl⟩

/-- The lists of exceptions caused together, by instruction: the four cases of 10_state.md R38. -/
theorem mem_jointExceptions_cases {i : Instr} {exc : List Exc} (h : exc ∈ jointExceptions i) :
    exc = [.ox, .xx] ∨ exc = [.ux, .xx] ∨
      (exc = [.vxsnan, .vxvc] ∧ ((∃ bf fra frb, i = .dcmpo bf fra frb) ∨ ∃ bf fra frb, i = .dcmpoq bf fra frb)) ∨
      (exc = [.vxcvi, .vxsnan] ∧
        ((∃ frt frb rc, i = .dctfix frt frb rc) ∨ ∃ frt frb rc, i = .dctfixq frt frb rc)) := by
  unfold jointExceptions at h
  split at h
  · exact .inr (.inr (.inl ⟨List.mem_singleton.mp h, .inl ⟨_, _, _, rfl⟩⟩))
  · exact .inr (.inr (.inl ⟨List.mem_singleton.mp h, .inr ⟨_, _, _, rfl⟩⟩))
  · exact .inr (.inr (.inr ⟨List.mem_singleton.mp h, .inl ⟨_, _, _, rfl⟩⟩))
  · exact .inr (.inr (.inr ⟨List.mem_singleton.mp h, .inr ⟨_, _, _, rfl⟩⟩))
  · rcases List.mem_pair.mp h with h | h
    · exact .inl h
    · exact .inr (.inl h)

/-- Two different exceptions of a pair are the two of the pair. -/
theorem eq_pair_of_bit_lt {p q x y : Exc} (hx : x ∈ [p, q]) (hy : y ∈ [p, q]) (hlt : x.bit < y.bit) :
    (x = p ∧ y = q) ∨ (x = q ∧ y = p) := by
  rcases List.mem_pair.mp hx with rfl | rfl <;> rcases List.mem_pair.mp hy with rfl | rfl
  · exact absurd hlt (lt_irrefl _)
  · exact .inl ⟨rfl, rfl⟩
  · exact .inr ⟨rfl, rfl⟩
  · exact absurd hlt (lt_irrefl _)

/-- Settles O20: the newly set bits are those of the exceptions reported, which are at most one or one of the four pairs. -/
theorem jointExceptionBits : Obligations.JointExceptionBits := by
  intro i s t h a b ha hb hab hna hnb
  obtain ⟨-, rfl⟩ := exec_next h
  obtain ⟨x, hx, rfl⟩ := exists_exception_of_newlySet ha hna
  obtain ⟨y, hy, rfl⟩ := exists_exception_of_newlySet hb hnb
  rcases exceptions_effectOf_together i s with hlen | hjoint
  · have hxy : x = y := by
      match hl : (effectOf i s).exceptions, hlen with
      | [z], _ => rw [hl, List.mem_singleton] at hx hy; rw [hx, hy]
      | [], _ => rw [hl] at hx; cases hx
    exact absurd hab (hxy ▸ lt_irrefl _)
  · rcases mem_jointExceptions_cases hjoint with he | he | ⟨he, hi⟩ | ⟨he, hi⟩ <;>
      rw [he] at hx hy <;>
      obtain ⟨rfl, rfl⟩ | ⟨rfl, rfl⟩ := eq_pair_of_bit_lt hx hy hab
    · exact .inl ⟨rfl, rfl⟩
    · exact absurd hab (by decide)
    · exact .inr (.inl ⟨rfl, rfl⟩)
    · exact absurd hab (by decide)
    · exact .inr (.inr (.inl ⟨rfl, rfl, hi⟩))
    · exact absurd hab (by decide)
    · exact absurd hab (by decide)
    · exact .inr (.inr (.inr ⟨rfl, rfl, hi⟩))

end Sys2Proof.Machine
end

section
/-! Encoding and decoding (30_encoding.md R95 to R106): the row a word selects, the fields it holds, and the words that are
refused. -/

namespace Sys2Proof.Machine

-- One proof at a time: elaborated in parallel, they need more memory than the check allows.
set_option Elab.async false

open Sys2Proof.Laws

/-! ### Operands read from a field -/

theorem regAt_eq {n a : Nat} {r : FReg} (h : fld n a (a + 4) = r.val) : regAt n a = r := by
  rw [regAt, h]
  exact Fin.ofNat_val_eq_self r

theorem flagAt_eq {n a : Nat} {b : Bool} (h : fld n a a = b.toNat) : flagAt n a = b := by
  rw [flagAt, h]
  cases b <;> rfl

theorem finOfNat_eq {k n : Nat} [NeZero k] {x : Fin k} (h : n = x.val) : Fin.ofNat k n = x := by
  rw [h]
  exact Fin.ofNat_val_eq_self x

theorem ofNat_eq_of_toNat {w n : Nat} {x : BitVec w} (h : n = x.toNat) : BitVec.ofNat w n = x := by
  rw [h]
  exact BitVec.ofNat_toNat w x ▸ BitVec.setWidth_eq x

theorem four_mul_lt (bf : Fin 8) : 4 * bf.val < 32 := by omega

theorem rmc_le (m : Fin 4) : 256 * m.val + 256 ≤ 1024 := by omega

theorem half_lt {x : Nat} (h : x < 64) : x / 2 < 32 ∧ 512 * (x % 2) + 512 ≤ 1024 := by omega

section
variable (p q : Bool)

/-! Two bits at the left of a field of five. -/

theorem sp_lt : 16 * p.toNat + 8 * q.toNat < 32 := by revert p q; decide

theorem sp_mod : (16 * p.toNat + 8 * q.toNat) % 8 = 0 := by revert p q; decide

theorem sp_div_16 : (16 * p.toNat + 8 * q.toNat) / 16 = p.toNat := by revert p q; decide

theorem sp_div_8 : (16 * p.toNat + 8 * q.toNat) / 8 % 2 = q.toNat := by revert p q; decide

end

/-! ### The fields of a word -/

/-- A 32-bit word is put together from six fields. -/
theorem word_eq_fields {n : Nat} (h : n < 2 ^ 32) :
    n = fld n 0 5 * 2 ^ 26 + fld n 6 10 * 2 ^ 21 + fld n 11 15 * 2 ^ 16 + fld n 16 20 * 2 ^ 11 + fld n 21 30 * 2
      + fld n 31 31 := by
  simp only [fld]
  omega

/-- The sizes of the six fields. -/
theorem fld_lt (n : Nat) :
    fld n 6 10 < 32 ∧ fld n 11 15 < 32 ∧ fld n 16 20 < 32 ∧ fld n 21 30 < 1024 ∧ fld n 31 31 < 2 := by
  simp only [fld]
  omega

section
variable (n : Nat)

/-! Every other field a layout names is a part of the six (30_encoding.md R83 to R86). -/

theorem fld_6_8 : fld n 6 8 = fld n 6 10 / 4 := by unfold fld; omega

theorem fld_9_10 : fld n 9 10 = fld n 6 10 % 4 := by unfold fld; omega

theorem fld_11_11 : fld n 11 11 = fld n 11 15 / 16 := by unfold fld; omega

theorem fld_11_14 : fld n 11 14 = fld n 11 15 / 2 := by unfold fld; omega

theorem fld_12_12 : fld n 12 12 = fld n 11 15 / 8 % 2 := by unfold fld; omega

theorem fld_12_15 : fld n 12 15 = fld n 11 15 % 16 := by unfold fld; omega

theorem fld_13_15 : fld n 13 15 = fld n 11 15 % 8 := by unfold fld; omega

theorem fld_15_15 : fld n 15 15 = fld n 11 15 % 2 := by unfold fld; omega

theorem fld_16_21 : fld n 16 21 = 2 * fld n 16 20 + fld n 21 30 / 512 := by unfold fld; omega

theorem fld_21_22 : fld n 21 22 = fld n 21 30 / 256 := by unfold fld; omega

end

/-- The operands of an instruction in the fields of its word: bits 6:10, 11:15 and 16:20, what bits 21:30 hold beside the
extended opcode, and bit 31. -/
structure OperandFields where
  f6 : Nat
  f11 : Nat
  f16 : Nat
  ext : Nat
  f31 : Nat

/-- Where each layout puts the operands (30_encoding.md R83 to R86). -/
def operandFields : Instr → OperandFields
  | .dadd a b c rc | .daddq a b c rc | .dsub a b c rc | .dsubq a b c rc | .dmul a b c rc | .dmulq a b c rc
  | .ddiv a b c rc | .ddivq a b c rc | .diex a b c rc | .diexq a b c rc => ⟨a, b, c, 0, rc.toNat⟩
  | .dcmpu bf a b | .dcmpuq bf a b | .dcmpo bf a b | .dcmpoq bf a b | .dtstex bf a b | .dtstexq bf a b
  | .dtstsf bf a b | .dtstsfq bf a b => ⟨4 * bf, a, b, 0, 0⟩
  | .dtstdc bf a mask | .dtstdcq bf a mask | .dtstdg bf a mask | .dtstdgq bf a mask =>
    ⟨4 * bf, a, mask.toNat / 2, 512 * (mask.toNat % 2), 0⟩
  | .dquai a te c m rc | .dquaiq a te c m rc => ⟨a, te.toNat, c, 256 * m, rc.toNat⟩
  | .dqua a b c m rc | .dquaq a b c m rc | .drrnd a b c m rc | .drrndq a b c m rc => ⟨a, b, c, 256 * m, rc.toNat⟩
  | .drintx a r c m rc | .drintxq a r c m rc | .drintn a r c m rc | .drintnq a r c m rc =>
    ⟨a, r.toNat, c, 256 * m, rc.toNat⟩
  | .dctdp a c rc | .dctqpq a c rc | .drsp a c rc | .drdpq a c rc | .dcffixq a c rc | .dctfix a c rc
  | .dctfixq a c rc | .dxex a c rc | .dxexq a c rc => ⟨a, 0, c, 0, rc.toNat⟩
  | .ddedpd a sp0 sp1 c rc | .ddedpdq a sp0 sp1 c rc => ⟨a, 16 * sp0.toNat + 8 * sp1.toNat, c, 0, rc.toNat⟩
  | .denbcd a r c rc | .denbcdq a r c rc => ⟨a, 16 * r.toNat, c, 0, rc.toNat⟩
  | .dscli a b sh rc | .dscliq a b sh rc | .dscri a b sh rc | .dscriq a b sh rc =>
    ⟨a, b, sh / 2, 512 * (sh % 2), rc.toNat⟩

theorem fieldBits_eq (i : Instr) :
    i.fieldBits = (operandFields i).f6 * 2 ^ 21 + (operandFields i).f11 * 2 ^ 16 + (operandFields i).f16 * 2 ^ 11
      + (operandFields i).ext * 2 + (operandFields i).f31 := by
  cases i <;> simp only [Instr.fieldBits, operandFields] <;> omega

/-- The number of values of a row's extended opcode: 8 bits in the layout Z23, 9 in Z22, 10 in X (30_encoding.md R82). -/
def xoValues : Op → Nat
  | .dquai | .dquaiq | .dqua | .dquaq | .drrnd | .drrndq | .drintx | .drintxq | .drintn | .drintnq => 256
  | .dtstdc | .dtstdcq | .dtstdg | .dtstdgq | .dscli | .dscliq | .dscri | .dscriq => 512
  | _ => 1024

theorem opcd_lt (op : Op) : op.opcd < 64 := by cases op <;> decide

theorem xo_lt (op : Op) : op.xo < xoValues op := by cases op <;> decide

/-- No operand reaches into the field beside it. -/
theorem operandFields_lt (i : Instr) :
    (operandFields i).f6 < 32 ∧ (operandFields i).f11 < 32 ∧ (operandFields i).f16 < 32 ∧
      (operandFields i).ext + xoValues i.op ≤ 1024 ∧ (operandFields i).f31 < 2 := by
  cases i with
  | dadd a b c rc | daddq a b c rc | dsub a b c rc | dsubq a b c rc | dmul a b c rc | dmulq a b c rc | ddiv a b c rc
  | ddivq a b c rc | diex a b c rc | diexq a b c rc =>
    exact ⟨a.isLt, b.isLt, c.isLt, le_refl 1024, Bool.toNat_lt rc⟩
  | dcmpu bf a b | dcmpuq bf a b | dcmpo bf a b | dcmpoq bf a b | dtstex bf a b | dtstexq bf a b | dtstsf bf a b
  | dtstsfq bf a b => exact ⟨four_mul_lt bf, a.isLt, b.isLt, le_refl 1024, two_pos⟩
  | dtstdc bf a mask | dtstdcq bf a mask | dtstdg bf a mask | dtstdgq bf a mask =>
    exact ⟨four_mul_lt bf, a.isLt, (half_lt mask.isLt).1, (half_lt mask.isLt).2, two_pos⟩
  | dquai a te c m rc | dquaiq a te c m rc =>
    exact ⟨a.isLt, te.isLt, c.isLt, rmc_le m, Bool.toNat_lt rc⟩
  | dqua a b c m rc | dquaq a b c m rc | drrnd a b c m rc | drrndq a b c m rc =>
    exact ⟨a.isLt, b.isLt, c.isLt, rmc_le m, Bool.toNat_lt rc⟩
  | drintx a r c m rc | drintxq a r c m rc | drintn a r c m rc | drintnq a r c m rc =>
    exact ⟨a.isLt, (Bool.toNat_lt r).trans (by norm_num), c.isLt, rmc_le m, Bool.toNat_lt rc⟩
  | dctdp a c rc | dctqpq a c rc | drsp a c rc | drdpq a c rc | dcffixq a c rc | dctfix a c rc | dctfixq a c rc
  | dxex a c rc | dxexq a c rc => exact ⟨a.isLt, Nat.zero_lt_succ 31, c.isLt, le_refl 1024, Bool.toNat_lt rc⟩
  | ddedpd a sp0 sp1 c rc | ddedpdq a sp0 sp1 c rc =>
    exact ⟨a.isLt, sp_lt sp0 sp1, c.isLt, le_refl 1024, Bool.toNat_lt rc⟩
  | denbcd a r c rc | denbcdq a r c rc =>
    exact ⟨a.isLt, sp_lt r false, c.isLt, le_refl 1024, Bool.toNat_lt rc⟩
  | dscli a b sh rc | dscliq a b sh rc | dscri a b sh rc | dscriq a b sh rc =>
    exact ⟨a.isLt, b.isLt, (half_lt sh.isLt).1, (half_lt sh.isLt).2, Bool.toNat_lt rc⟩

/-- The six fields of the word n are the opcodes and operands of the instruction i. -/
structure HoldsInstr (n : Nat) (i : Instr) : Prop where
  po : fld n 0 5 = i.op.opcd
  f6 : fld n 6 10 = (operandFields i).f6
  f11 : fld n 11 15 = (operandFields i).f11
  f16 : fld n 16 20 = (operandFields i).f16
  xo : fld n 21 30 = i.op.xo + (operandFields i).ext
  f31 : fld n 31 31 = (operandFields i).f31

/-- A number put together from six fields of the sizes of a word's holds these fields. -/
theorem fld_of_sum {n o a b c x r : Nat} (h : n = o * 2 ^ 26 + a * 2 ^ 21 + b * 2 ^ 16 + c * 2 ^ 11 + x * 2 + r)
    (ho : o < 64) (ha : a < 32) (hb : b < 32) (hc : c < 32) (hx : x < 1024) (hr : r < 2) :
    fld n 0 5 = o ∧ fld n 6 10 = a ∧ fld n 11 15 = b ∧ fld n 16 20 = c ∧ fld n 21 30 = x ∧ fld n 31 31 = r := by
  simp only [fld]
  omega

theorem baseWord_add_fieldBits (i : Instr) :
    i.op.baseWord + i.fieldBits = i.op.opcd * 2 ^ 26 + (operandFields i).f6 * 2 ^ 21 + (operandFields i).f11 * 2 ^ 16
      + (operandFields i).f16 * 2 ^ 11 + (i.op.xo + (operandFields i).ext) * 2 + (operandFields i).f31 := by
  rw [fieldBits_eq, Op.baseWord]
  ring

/-- The word of an instruction as a number: opcodes and fields share no bit, and fit 32 bits (30_encoding.md R96). -/
theorem toNat_encode (i : Instr) : (encode i).toNat = i.op.baseWord + i.fieldBits := by
  refine RowSelect.toNat_encode i ?_
  obtain ⟨h6, h11, h16, hext, h31⟩ := operandFields_lt i
  have hop := opcd_lt i.op
  have hxo := xo_lt i.op
  rw [baseWord_add_fieldBits]
  omega

/-- The word of an instruction holds the instruction (30_encoding.md R96). -/
theorem holdsInstr_encode (i : Instr) : HoldsInstr (encode i).toNat i := by
  obtain ⟨h6, h11, h16, hext, h31⟩ := operandFields_lt i
  have hx : i.op.xo + (operandFields i).ext < 1024 := by
    have hxo := xo_lt i.op
    omega
  obtain ⟨e0, e6, e11, e16, e21, e31⟩ :=
    fld_of_sum ((toNat_encode i).trans (baseWord_add_fieldBits i)) (opcd_lt _) h6 h11 h16 hx h31
  exact ⟨e0, e6, e11, e16, e21, e31⟩

/-- A word that holds an instruction is the instruction's word (30_encoding.md R96). -/
theorem encode_of_holdsInstr {w : InsnWord} {i : Instr} (h : HoldsInstr w.toNat i) : encode i = w := by
  refine BitVec.eq_of_toNat_eq ?_
  rw [toNat_encode, baseWord_add_fieldBits, ← h.po, ← h.f6, ← h.f11, ← h.f16, ← h.xo, ← h.f31]
  exact (word_eq_fields w.isLt).symm

/-! ### Decoding what was encoded -/

/-- The word of an instruction selects the instruction's own row (30_encoding.md R98). -/
theorem rowOf_encode (i : Instr) : rowOf (encode i).toNat = some i.op := by
  cases i
  exacts [RowSelect.dadd .., RowSelect.daddq .., RowSelect.dsub .., RowSelect.dsubq .., RowSelect.dmul ..,
    RowSelect.dmulq .., RowSelect.ddiv .., RowSelect.ddivq .., RowSelect.dcmpu .., RowSelect.dcmpuq ..,
    RowSelect.dcmpo .., RowSelect.dcmpoq .., RowSelect.dtstdc .., RowSelect.dtstdcq .., RowSelect.dtstdg ..,
    RowSelect.dtstdgq .., RowSelect.dtstex .., RowSelect.dtstexq .., RowSelect.dtstsf .., RowSelect.dtstsfq ..,
    RowSelect.dquai .., RowSelect.dquaiq .., RowSelect.dqua .., RowSelect.dquaq .., RowSelect.drrnd ..,
    RowSelect.drrndq .., RowSelect.drintx .., RowSelect.drintxq .., RowSelect.drintn .., RowSelect.drintnq ..,
    RowSelect.dctdp .., RowSelect.dctqpq .., RowSelect.drsp .., RowSelect.drdpq .., RowSelect.dcffixq ..,
    RowSelect.dctfix .., RowSelect.dctfixq .., RowSelect.ddedpd .., RowSelect.ddedpdq .., RowSelect.denbcd ..,
    RowSelect.denbcdq .., RowSelect.dxex .., RowSelect.dxexq .., RowSelect.diex .., RowSelect.diexq ..,
    RowSelect.dscli .., RowSelect.dscliq .., RowSelect.dscri .., RowSelect.dscriq ..]

/-- A word that holds an instruction has no reserved bit set (30_encoding.md R104). -/
theorem hasReservedBit_of_holdsInstr {n : Nat} {i : Instr} (h : HoldsInstr n i) : hasReservedBit n i.op = false := by
  obtain ⟨-, h6, h11, -, -, h31⟩ := h
  cases i with
  | dadd | daddq | dsub | dsubq | dmul | dmulq | ddiv | ddivq | diex | diexq | dscli | dscliq | dscri | dscriq | dquai
  | dquaiq | dqua | dquaq | drrnd | drrndq => rfl
  | dcmpu | dcmpuq | dcmpo | dcmpoq | dtstdc | dtstdcq | dtstdg | dtstdgq | dtstex | dtstexq | dtstsf | dtstsfq =>
    have h9 : fld n 9 10 = 0 := by rw [fld_9_10, h6]; exact Nat.mul_mod_right ..
    have h31 : fld n 31 31 = 0 := h31
    simp only [Instr.op, hasReservedBit, h9, h31, bne_self_eq_false, Bool.or_self]
  | drintx a r | drintxq a r | drintn a r | drintnq a r =>
    have h14 : fld n 11 14 = 0 := by rw [fld_11_14, h11]; exact Nat.div_eq_of_lt (Bool.toNat_lt r)
    simp only [Instr.op, hasReservedBit, h14, bne_self_eq_false]
  | dctdp | dctqpq | drsp | drdpq | dcffixq | dctfix | dctfixq | dxex | dxexq =>
    have h15 : fld n 11 15 = 0 := h11
    simp only [Instr.op, hasReservedBit, h15, bne_self_eq_false]
  | ddedpd a sp0 sp1 | ddedpdq a sp0 sp1 =>
    have h13 : fld n 13 15 = 0 := by rw [fld_13_15, h11]; exact sp_mod sp0 sp1
    simp only [Instr.op, hasReservedBit, h13, bne_self_eq_false]
  | denbcd | denbcdq =>
    have h12 : fld n 12 15 = 0 := by rw [fld_12_15, h11]; exact Nat.mul_mod_right ..
    simp only [Instr.op, hasReservedBit, h12, bne_self_eq_false]

/-- The rounding mode or the bit of a shift count that a field holds above an extended opcode of k bits. -/
theorem above_xo {k x m : Nat} (hx : x < k) : (x + k * m) / k = m := by
  rw [Nat.add_mul_div_left _ _ (Nat.zero_lt_of_lt hx), Nat.div_eq_of_lt hx, Nat.zero_add]

/-- A field of bits 6:10 that holds a CR field in its first three bits (30_encoding.md R84). -/
theorem crField_eq {n : Nat} {bf : Fin 8} (h : fld n 6 10 = 4 * bf.val) : Fin.ofNat 8 (fld n 6 8) = bf :=
  finOfNat_eq (by rw [fld_6_8, h]; exact Nat.mul_div_right _ (by norm_num))

theorem fld_16_21_eq {n x y : Nat} (h16 : fld n 16 20 = y / 2) (h21 : fld n 21 30 = x + 512 * (y % 2))
    (hx : x < 512) : fld n 16 21 = y := by
  rw [fld_16_21, h16, h21]
  omega

/-- A word that holds an instruction has its operands in the fields (30_encoding.md R83 to R86). -/
theorem buildInstr_of_holdsInstr {n : Nat} {i : Instr} (h : HoldsInstr n i) : buildInstr n i.op = i := by
  obtain ⟨-, h6, h11, h16, h21, h31⟩ := h
  have hxo := xo_lt i.op
  cases i with
  | dadd | daddq | dsub | dsubq | dmul | dmulq | ddiv | ddivq | diex | diexq =>
    simp only [Instr.op, buildInstr, regAt_eq h6, regAt_eq h11, regAt_eq h16, flagAt_eq h31]
  | dcmpu bf | dcmpuq bf | dcmpo bf | dcmpoq bf | dtstex bf | dtstexq bf | dtstsf bf | dtstsfq bf =>
    have hbf : Fin.ofNat 8 (fld n 6 8) = bf := crField_eq h6
    simp only [Instr.op, buildInstr, hbf, regAt_eq h11, regAt_eq h16]
  | dtstdc bf a mask | dtstdcq bf a mask | dtstdg bf a mask | dtstdgq bf a mask =>
    have hbf : Fin.ofNat 8 (fld n 6 8) = bf := crField_eq h6
    have hmask : BitVec.ofNat 6 (fld n 16 21) = mask := ofNat_eq_of_toNat (fld_16_21_eq h16 (h21.trans rfl) hxo)
    simp only [Instr.op, buildInstr, hbf, regAt_eq h11, hmask]
  | dquai a te c m | dquaiq a te c m =>
    have hte : BitVec.ofNat 5 (fld n 11 15) = te := ofNat_eq_of_toNat h11
    have hm : Fin.ofNat 4 (fld n 21 22) = m := finOfNat_eq (by rw [fld_21_22, h21]; exact above_xo hxo)
    simp only [Instr.op, buildInstr, regAt_eq h6, hte, regAt_eq h16, hm, flagAt_eq h31]
  | dqua a b c m | dquaq a b c m | drrnd a b c m | drrndq a b c m =>
    have hm : Fin.ofNat 4 (fld n 21 22) = m := finOfNat_eq (by rw [fld_21_22, h21]; exact above_xo hxo)
    simp only [Instr.op, buildInstr, regAt_eq h6, regAt_eq h11, regAt_eq h16, hm, flagAt_eq h31]
  | drintx a r c m | drintxq a r c m | drintn a r c m | drintnq a r c m =>
    have hr : flagAt n 15 = r := flagAt_eq (by rw [fld_15_15, h11]; exact Nat.mod_eq_of_lt (Bool.toNat_lt r))
    have hm : Fin.ofNat 4 (fld n 21 22) = m := finOfNat_eq (by rw [fld_21_22, h21]; exact above_xo hxo)
    simp only [Instr.op, buildInstr, regAt_eq h6, hr, regAt_eq h16, hm, flagAt_eq h31]
  | dctdp | dctqpq | drsp | drdpq | dcffixq | dctfix | dctfixq | dxex | dxexq =>
    simp only [Instr.op, buildInstr, regAt_eq h6, regAt_eq h16, flagAt_eq h31]
  | ddedpd a sp0 sp1 | ddedpdq a sp0 sp1 =>
    have h0 : flagAt n 11 = sp0 := flagAt_eq (by rw [fld_11_11, h11]; exact sp_div_16 sp0 sp1)
    have h1 : flagAt n 12 = sp1 := flagAt_eq (by rw [fld_12_12, h11]; exact sp_div_8 sp0 sp1)
    simp only [Instr.op, buildInstr, regAt_eq h6, h0, h1, regAt_eq h16, flagAt_eq h31]
  | denbcd a r | denbcdq a r =>
    have hr : flagAt n 11 = r := flagAt_eq (by rw [fld_11_11, h11]; exact sp_div_16 r false)
    simp only [Instr.op, buildInstr, regAt_eq h6, hr, regAt_eq h16, flagAt_eq h31]
  | dscli a b sh | dscliq a b sh | dscri a b sh | dscriq a b sh =>
    have hsh : Fin.ofNat 64 (fld n 16 21) = sh := finOfNat_eq (fld_16_21_eq h16 (h21.trans rfl) hxo)
    simp only [Instr.op, buildInstr, regAt_eq h6, regAt_eq h11, hsh, flagAt_eq h31]

/-- A word of a known row without reserved bits decodes to its fields, if these are well formed. -/
theorem decodeWord_of_row {w : InsnWord} {op : Op} {i : Instr} (hrow : rowOf w.toNat = some op)
    (hres : hasReservedBit w.toNat op = false) (hi : buildInstr w.toNat op = i) :
    decodeWord w = if i.wellFormed = true then .ok i else .error .invalidForm := by
  subst hi
  unfold decodeWord
  rw [hrow]
  dsimp only
  rw [hres, if_neg Bool.false_ne_true]

/-- What the word of any instruction decodes to: the instruction when it is well formed, else an invalid form. -/
theorem decodeWord_encode (i : Instr) :
    decodeWord (encode i) = if i.wellFormed = true then .ok i else .error .invalidForm :=
  decodeWord_of_row (rowOf_encode i) (hasReservedBit_of_holdsInstr (holdsInstr_encode i))
    (buildInstr_of_holdsInstr (holdsInstr_encode i))

/-- Settles O1: the word of an instruction selects its row, has no reserved bit set and holds its operands. -/
theorem decodeOfEncode : Obligations.DecodeOfEncode := fun i h => by
  rw [decodeWord_encode, if_pos h]

/-! ### Encoding what was decoded -/

theorem row59_eq_some {x : Nat} {op : Op} (hx : x < 1024) (h : row59 x = some op) :
    op.opcd = 59 ∧ x % xoValues op = op.xo := by
  unfold row59 at h
  repeat' split at h
  all_goals cases h <;> simp only [Op.opcd, Op.xo, xoValues, true_and] <;> omega

theorem row63_eq_some {x : Nat} {op : Op} (hx : x < 1024) (h : row63 x = some op) :
    op.opcd = 63 ∧ x % xoValues op = op.xo := by
  unfold row63 at h
  repeat' split at h
  all_goals cases h <;> simp only [Op.opcd, Op.xo, xoValues, true_and] <;> omega

/-- A word that matches a row has the row's opcodes (30_encoding.md R95). -/
theorem rowOf_eq_some {n : Nat} {op : Op} (h : rowOf n = some op) :
    fld n 0 5 = op.opcd ∧ fld n 21 30 % xoValues op = op.xo := by
  have hx : fld n 21 30 < 1024 := Nat.mod_lt _ (by norm_num)
  unfold rowOf at h
  split at h
  · next hp => rw [hp]; obtain ⟨ho, hxo⟩ := row59_eq_some hx h; exact ⟨ho.symm, hxo⟩
  · next hp => rw [hp]; obtain ⟨ho, hxo⟩ := row63_eq_some hx h; exact ⟨ho.symm, hxo⟩
  · cases h

theorem toNat_flagAt (n a : Nat) : (flagAt n a).toNat = fld n a a % 2 := by
  have h : fld n a a < 2 := by
    unfold fld
    rw [Nat.add_sub_cancel_left]
    exact Nat.mod_lt _ (by norm_num)
  unfold flagAt
  rcases Nat.le_one_iff_eq_zero_or_eq_one.mp (Nat.le_of_lt_succ h) with h0 | h1
  · rw [h0]; rfl
  · rw [h1]; rfl

theorem of_or_bne {a b : Nat} (h : (a != 0 || b != 0) = false) : a = 0 ∧ b = 0 := by
  simpa using h

/-- A field of bits 21:30 is the extended opcode and the rounding mode above it. -/
theorem xo_add_rmc {n x : Nat} (hx : fld n 21 30 % 256 = x) :
    fld n 21 30 = x + 256 * (Fin.ofNat 4 (fld n 21 22)).val := by
  have h21 : fld n 21 30 < 1024 := (fld_lt n).2.2.2.1
  rw [fld_21_22, Fin.val_ofNat]
  omega

/-- Bits 16:21 are bits 16:20 and the bit above an extended opcode of 9 bits. -/
theorem fld_16_21_split {n x : Nat} (hx : fld n 21 30 % 512 = x) :
    fld n 16 20 = fld n 16 21 % 64 / 2 ∧ fld n 21 30 = x + 512 * (fld n 16 21 % 64 % 2) := by
  obtain ⟨-, -, h16, h21, -⟩ := fld_lt n
  rw [fld_16_21]
  omega

/-- The CR field is bits 6:8; bits 9:10 are reserved (30_encoding.md R84). -/
theorem crField_mul_four {n : Nat} (h : fld n 9 10 = 0) : fld n 6 10 = 4 * (Fin.ofNat 8 (fld n 6 8)).val := by
  have h6 : fld n 6 10 < 32 := (fld_lt n).1
  rw [fld_9_10] at h
  rw [fld_6_8, Fin.val_ofNat]
  omega

/-- A word with the row's opcodes and no reserved bit set holds the instruction built of its fields (30_encoding.md R98). -/
theorem holdsInstr_buildInstr {n : Nat} {op : Op} (hp : fld n 0 5 = op.opcd)
    (hx : fld n 21 30 % xoValues op = op.xo) (hr : hasReservedBit n op = false) : HoldsInstr n (buildInstr n op) := by
  obtain ⟨h6, h11, h16, h21, h31⟩ := fld_lt n
  have r6 : (regAt n 6).val = fld n 6 10 := Nat.mod_eq_of_lt h6
  have r11 : (regAt n 11).val = fld n 11 15 := Nat.mod_eq_of_lt h11
  have r16 : (regAt n 16).val = fld n 16 20 := Nat.mod_eq_of_lt h16
  have r31 : (flagAt n 31).toNat = fld n 31 31 := (toNat_flagAt n 31).trans (Nat.mod_eq_of_lt h31)
  cases op with
  | dadd | daddq | dsub | dsubq | dmul | dmulq | ddiv | ddivq | diex | diexq =>
    exact ⟨hp, r6.symm, r11.symm, r16.symm, (Nat.mod_eq_of_lt h21).symm.trans hx, r31.symm⟩
  | dquai | dquaiq =>
    exact ⟨hp, r6.symm, (Nat.mod_eq_of_lt h11).symm, r16.symm, xo_add_rmc hx, r31.symm⟩
  | dqua | dquaq | drrnd | drrndq => exact ⟨hp, r6.symm, r11.symm, r16.symm, xo_add_rmc hx, r31.symm⟩
  | dscli | dscliq | dscri | dscriq =>
    exact ⟨hp, r6.symm, r11.symm, (fld_16_21_split hx).1, (fld_16_21_split hx).2, r31.symm⟩
  | dcmpu | dcmpuq | dcmpo | dcmpoq | dtstex | dtstexq | dtstsf | dtstsfq =>
    obtain ⟨h9, h0⟩ := of_or_bne hr
    exact ⟨hp, crField_mul_four h9, r11.symm, r16.symm, (Nat.mod_eq_of_lt h21).symm.trans hx, h0⟩
  | dtstdc | dtstdcq | dtstdg | dtstdgq =>
    obtain ⟨h9, h0⟩ := of_or_bne hr
    exact ⟨hp, crField_mul_four h9, r11.symm, (fld_16_21_split hx).1, (fld_16_21_split hx).2, h0⟩
  | dctdp | dctqpq | drsp | drdpq | dcffixq | dctfix | dctfixq | dxex | dxexq =>
    exact ⟨hp, r6.symm, bne_eq_false_iff_eq.mp hr, r16.symm, (Nat.mod_eq_of_lt h21).symm.trans hx, r31.symm⟩
  | drintx | drintxq | drintn | drintnq =>
    have h14 : fld n 11 14 = 0 := bne_eq_false_iff_eq.mp hr
    refine ⟨hp, r6.symm, Eq.trans ?_ (toNat_flagAt n 15).symm, r16.symm, xo_add_rmc hx, r31.symm⟩
    rw [fld_11_14] at h14
    rw [fld_15_15]
    omega
  | ddedpd | ddedpdq =>
    have h13 : fld n 13 15 = 0 := bne_eq_false_iff_eq.mp hr
    refine ⟨hp, r6.symm, ?_, r16.symm, (Nat.mod_eq_of_lt h21).symm.trans hx, r31.symm⟩
    rw [fld_13_15] at h13
    simp only [buildInstr, operandFields, toNat_flagAt, fld_11_11, fld_12_12]
    omega
  | denbcd | denbcdq =>
    have h12 : fld n 12 15 = 0 := bne_eq_false_iff_eq.mp hr
    refine ⟨hp, r6.symm, ?_, r16.symm, (Nat.mod_eq_of_lt h21).symm.trans hx, r31.symm⟩
    rw [fld_12_15] at h12
    simp only [buildInstr, operandFields, toNat_flagAt, fld_11_11]
    omega

/-- A word that decodes selects a row, has no reserved bit set, and holds the fields of a well-formed instruction. -/
theorem decodeWord_eq_ok {w : InsnWord} {i : Instr} (h : decodeWord w = .ok i) :
    ∃ op, rowOf w.toNat = some op ∧ hasReservedBit w.toNat op = false ∧ buildInstr w.toNat op = i ∧
      i.wellFormed = true := by
  unfold decodeWord at h
  split at h
  · cases h
  · next op hrow =>
    refine ⟨op, hrow, ?_⟩
    split at h
    · cases h
    · next hres =>
      split at h
      · next hwf =>
        cases h
        exact ⟨by simpa using hres, rfl, hwf⟩
      · cases h

/-- Settles O2: the opcodes of a word that decodes are its row's, and every other bit is in a field or reserved. -/
theorem encodeOfDecode : Obligations.EncodeOfDecode := by
  intro w i h
  obtain ⟨op, hrow, hres, rfl, hwf⟩ := decodeWord_eq_ok h
  obtain ⟨hp, hx⟩ := rowOf_eq_some hrow
  exact ⟨encode_of_holdsInstr (holdsInstr_buildInstr hp hx hres), hwf⟩

/-! ### Words with reserved bits (30_encoding.md R104) -/

/-- The fields of two words ORed are those of each, ORed. -/
theorem fld_or (m n a b : Nat) : fld (m ||| n) a b = fld m a b ||| fld n a b := by
  simp only [fld, ← Nat.shiftRight_eq_div_pow, Nat.shiftRight_or_distrib, Nat.or_mod_two_pow]

theorem fld_or_ne_zero (m n a b : Nat) : (fld (m ||| n) a b != 0) = (fld m a b != 0 || fld n a b != 0) := by
  rw [fld_or, Bool.eq_iff_iff]
  simp only [bne_iff_ne, Bool.or_eq_true, ne_eq, Nat.or_eq_zero_iff]
  tauto

/-- A reserved bit set in one of two words is set in the words ORed. -/
theorem hasReservedBit_or (m n : Nat) (op : Op) :
    hasReservedBit (m ||| n) op = (hasReservedBit m op || hasReservedBit n op) := by
  cases op <;> simp only [hasReservedBit, fld_or_ne_zero, Bool.or_false, Bool.or_assoc, Bool.or_left_comm]

/-- Bits outside the opcodes do not change the row (30_encoding.md R98). -/
theorem rowOf_or {m n : Nat} (hp : fld n 0 5 = 0) (hx : fld n 21 30 = 0) : rowOf (m ||| n) = rowOf m := by
  unfold rowOf
  rw [fld_or, hp, fld_or, hx, Nat.or_zero, Nat.or_zero]

/-- The reserved bits of an instruction are reserved in its row, and none is an opcode bit (30_encoding.md R104). -/
theorem reservedBitsOf_spec (i : Instr) : ∀ b ∈ reservedBitsOf i,
    fld (2 ^ (31 - b)) 0 5 = 0 ∧ fld (2 ^ (31 - b)) 21 30 = 0 ∧ hasReservedBit (2 ^ (31 - b)) i.op = true := by
  cases i <;> simp only [reservedBitsOf, Instr.op] <;> decide

/-- A word with a reserved bit of its row set is refused. -/
theorem decodeWord_reserved {w : InsnWord} {op : Op} (hrow : rowOf w.toNat = some op)
    (hres : hasReservedBit w.toNat op = true) : decodeWord w = .error .reservedBits := by
  unfold decodeWord
  rw [hrow]
  dsimp only
  rw [if_pos hres]

theorem decodeWord_encode_or_reserved {i : Instr} {b : Nat} (hb : b ∈ reservedBitsOf i) :
    decodeWord (encode i ||| BitVec.ofNat 32 (2 ^ (31 - b))) = .error .reservedBits := by
  obtain ⟨hp, hx, hres⟩ := reservedBitsOf_spec i b hb
  have hpow : (BitVec.ofNat 32 (2 ^ (31 - b))).toNat = 2 ^ (31 - b) := by
    rw [BitVec.toNat_ofNat]
    exact Nat.mod_eq_of_lt (Nat.pow_lt_pow_right (by norm_num) (by omega))
  refine decodeWord_reserved (op := i.op) ?_ ?_
  · rw [BitVec.toNat_or, hpow, rowOf_or hp hx, rowOf_encode]
  · rw [BitVec.toNat_or, hpow, hasReservedBit_or, hres, Bool.or_true]

/-- Settles O3: an odd pair field fails the check that decoding and meaning share, a reserved bit the one before it. -/
theorem invalidWordsRefused : Obligations.InvalidWordsRefused := by
  refine ⟨fun i s h => ⟨?_, ?_⟩, fun i b hb => decodeWord_encode_or_reserved hb⟩
  · rw [decodeWord_encode, h, if_neg Bool.false_ne_true]
  · have hpairs : pairsEven i.pairFields = false := h
    rw [exec_eq, onPairs_eq, hpairs, if_neg Bool.false_ne_true]

/-- Settles O4: the twelve words are evaluated. -/
theorem sampleWords : Obligations.SampleWords := by
  unfold Obligations.SampleWords
  decide

end Sys2Proof.Machine
end

section
/-! The step, the invariant it keeps, and the host's actions (10_state.md R50 to R53, 60_exceptions.md R376 to R378,
70_reset_and_hazards.md R405, R410). -/

namespace Sys2Proof.Machine

-- One proof at a time: elaborated in parallel, they need more memory than the check allows.
set_option Elab.async false

/-! ### Bits of masks -/

theorem bitAt_and {w : Nat} (u v : BitVec w) (j : Nat) : bitAt (u &&& v) j = (bitAt u j && bitAt v j) :=
  BitVec.getMsbD_and

theorem bitAt_or {w : Nat} (u v : BitVec w) (j : Nat) : bitAt (u ||| v) j = (bitAt u j || bitAt v j) :=
  BitVec.getMsbD_or

theorem bitAt_not (v : BitVec 64) {j : Nat} (hj : j < 64) : bitAt (~~~v) j = !bitAt v j := by
  simp [bitAt, BitVec.getMsbD_not, hj]

/-- A mask has the bits it is made of. -/
theorem bitAt_maskOf {bits : List Nat} (hbits : ∀ i ∈ bits, i < 64) {j : Nat} (hj : j < 64) :
    bitAt (maskOf bits) j = decide (j ∈ bits) := by
  have key : ∀ (bits : List Nat) (v : BitVec 64), (∀ i ∈ bits, i < 64) →
      bitAt (bits.foldl (fun m i => setBitAt m i true) v) j = (bitAt v j || decide (j ∈ bits)) := by
    intro bits
    induction bits with
    | nil => simp
    | cons i is ih =>
      intro v h
      rw [List.foldl_cons, ih _ (fun k hk => h k (List.mem_cons_of_mem _ hk)),
        bitAt_setBitAt _ _ _ _ (h i List.mem_cons_self) hj]
      by_cases hij : i = j
      · simp [hij]
      · simp [hij, Ne.symm hij]
  have h0 : bitAt (0 : BitVec 64) j = false := by simp [bitAt]
  rw [maskOf, key bits 0 hbits, h0, Bool.false_or]

/-! ### The four exception modes (60_exceptions.md R375) -/

@[simp] theorem excModeOf_00 : excModeOf 0b00#2 = .ignoreExceptions := by decide
@[simp] theorem excModeOf_01 : excModeOf 0b01#2 = .impreciseNonrecoverable := by decide
@[simp] theorem excModeOf_10 : excModeOf 0b10#2 = .impreciseRecoverable := by decide
@[simp] theorem excModeOf_11 : excModeOf 0b11#2 = .precise := by decide

/-! ### What a step can do -/

/-- A step that answers a next state delivers what is pending, or runs the instruction at an aligned pc. -/
theorem step_next {s t : State} (h : step s = .next t) :
    s.trapAt = none ∧ ((s.pending = true ∧ t = deliverPending s) ∨ ∃ i, fetch s = .insn i ∧ exec i s = .next t) := by
  unfold step at h
  split at h
  · cases h
  · next htrap =>
    refine ⟨htrap, ?_⟩
    split at h
    · next hc =>
      cases h
      exact .inl ⟨(Bool.and_eq_true_iff.mp hc).1, rfl⟩
    · split at h
      · split at h
        · cases h
        · cases h
        · next i hi =>
          split at h
          · next hm =>
            cases h
            simp only [mustTrapFirst, Bool.and_eq_true] at hm
            exact .inl ⟨hm.1.1, rfl⟩
          · exact .inr ⟨i, hi, h⟩
      · cases h

/-- With no Trap taken and an instruction at an aligned pc, the step delivers what is pending or runs the instruction. -/
theorem step_of_fetch {s : State} {i : Instr} (htrap : s.trapAt = none) (hpc : s.pc.toNat % 4 = 0)
    (hi : fetch s = .insn i) :
    step s = if choosesTrap s = true ∨ mustTrapFirst i s = true then .next (deliverPending s) else exec i s := by
  have hal : pcAligned s = true := by simp [pcAligned, hpc]
  unfold step
  rw [htrap]
  dsimp only
  rw [hal, hi]
  by_cases hc : choosesTrap s = true
  · simp [hc]
  · by_cases hm : mustTrapFirst i s = true <;> simp [hc, hm]

/-! ### The operations keep the invariant -/

theorem pc_add_four_aligned {a : Addr} (h : a.toNat % 4 = 0) : (a + 4).toNat % 4 = 0 := by
  rw [BitVec.toNat_add]
  have : (4 : Addr).toNat = 4 := rfl
  omega

theorem summariesHold_recomputed (v : BitVec 64) : summariesHold (recomputeSummaries v) = true := by
  obtain ⟨hvx, hfex⟩ := summaries_recomputed v
  simp [summariesHold, hvx, hfex]

/-- An effect leaves VX and FEX as they are defined (10_state.md R34, R35). -/
theorem summariesHold_fpscrAfter (e : Effect) {v : BitVec 64} (h : summariesHold v = true) :
    summariesHold (e.fpscrAfter v) = true := by
  unfold Effect.fpscrAfter
  split
  · exact h
  · exact summariesHold_recomputed _

section
variable {s : State}

theorem Inv.setPc (h : Inv s) {a : Addr} (ha : a.toNat % 4 = 0) : Inv (s.setPc a) :=
  ⟨h.mem, ha, h.summaries, h.notPending, h.trapped⟩

theorem Inv.drawFree (h : Inv s) : Inv s.drawFree := ⟨h.mem, h.pc, h.summaries, h.notPending, h.trapped⟩

theorem Inv.setFpscr (h : Inv s) {v : BitVec 64} (hv : summariesHold v = true) : Inv (s.setFpscr v) :=
  ⟨h.mem, h.pc, hv, h.notPending, h.trapped⟩

theorem Inv.takeTrap (h : Inv s) {a : Addr} (ha : a.toNat % 4 = 0) : Inv (takeTrap a s) := by
  refine ⟨h.mem, h.pc, h.summaries, fun _ => ⟨rfl, rfl⟩, fun b hb => ?_⟩
  cases (Option.some.inj hb : a = b)
  exact ha

theorem Inv.makePending (h : Inv s) (fprs : List FReg) (mask : BitVec 64) : Inv (makePending fprs mask s) :=
  ⟨h.mem, h.pc, h.summaries, fun hp => Bool.noConfusion hp, h.trapped⟩

theorem Inv.raiseEnabled (h : Inv s) (fprs : List FReg) (mask : BitVec 64) {cont : Addr} (hc : cont.toNat % 4 = 0)
    (n : Nat) : Inv (raiseEnabled fprs mask cont n s) := by
  rcases raiseEnabled_cases fprs mask cont n s with ⟨-, he⟩ | ⟨-, he⟩ | ⟨-, he⟩ <;> rw [he]
  · exact h.setPc hc
  · exact h.takeTrap h.pc
  · exact (h.makePending fprs mask).setPc hc

theorem Inv.applyEffect (h : Inv s) (e : Effect) : Inv (applyEffect e s) where
  mem := by simpa using h.mem
  pc := by simpa using h.pc
  summaries := by simpa using summariesHold_fpscrAfter e h.summaries
  notPending := by simpa using h.notPending
  trapped := by simpa using h.trapped

theorem Inv.finish (h : Inv s) (e : Effect) : Inv (finish e s) := by
  have hnext : (nextPc s).toNat % 4 = 0 := pc_add_four_aligned h.pc
  unfold Machine.finish
  dsimp only
  split
  · exact (h.applyEffect e).setPc hnext
  · exact (h.applyEffect e).raiseEnabled _ _ hnext _

/-- A Trap that raising takes leaves nothing pending (60_exceptions.md R377, R378). -/
theorem raiseEnabled_trap_notPending {fprs : List FReg} {mask : BitVec 64} {cont : Addr} {n : Nat} {a : Addr}
    (htrap : s.trapAt = none) (h : (raiseEnabled fprs mask cont n s).trapAt = some a) :
    (raiseEnabled fprs mask cont n s).pending = false := by
  rcases raiseEnabled_cases fprs mask cont n s with ⟨-, he⟩ | ⟨-, he⟩ | ⟨-, he⟩ <;> rw [he] at h ⊢
  · simp [htrap] at h
  · rfl
  · simp [htrap] at h

/-- A Trap that an instruction takes leaves nothing pending. -/
theorem finish_trap_notPending {e : Effect} {a : Addr} (htrap : s.trapAt = none) (h : (finish e s).trapAt = some a) :
    (finish e s).pending = false := by
  rcases finish_cases e s with ⟨-, he⟩ | ⟨-, -, he⟩ | ⟨-, -, he⟩ <;> rw [he] at h ⊢
  · simp [htrap] at h
  · rfl
  · simp [htrap] at h

end

/-- Settles O8: a step delivers what is pending or retires an effect, and both keep the invariant. -/
theorem stepKeepsInv : Obligations.StepKeepsInv := by
  intro s t hinv h
  obtain ⟨htrap, ⟨-, rfl⟩ | ⟨i, -, hexec⟩⟩ := step_next h
  · exact ⟨hinv.drawFree.takeTrap hinv.pc, fun _ _ => rfl⟩
  · obtain ⟨-, rfl⟩ := exec_next hexec
    exact ⟨hinv.finish _, fun a ha => finish_trap_notPending htrap ha⟩

/-! ### The step by cases -/

/-- Settles O7: the step is a delivery when the machine chooses it or must; else the instruction reads nothing recorded. -/
theorem pendingStep : Obligations.PendingStep := by
  intro s i htrap hp hpc hi
  rw [step_of_fetch htrap hpc hi]
  by_cases hc : choosesTrap s = true ∨ mustTrapFirst i s = true
  · exact .inl ⟨if_pos hc, rfl, rfl, rfl, rfl, rfl, rfl, rfl⟩
  · refine .inr ⟨if_neg hc, fun hmode => ?_⟩
    obtain ⟨-, hm⟩ := not_or.mp hc
    simpa [mustTrapFirst, readsPending, hp, hmode, not_or] using hm

/-- A word with a byte put behind its last, as `wordOfBytes` does it. -/
def pushByte (w : InsnWord) (b : Byte) : InsnWord := w <<< 8 ||| b.setWidth 32

theorem wordOfBytes_eq (big : Bool) (bs : List Byte) :
    wordOfBytes big bs = (if big = true then bs else bs.reverse).foldl pushByte 0 := rfl

theorem toNat_pushByte {w : InsnWord} {b : Byte} (h : w.toNat < 2 ^ 24) :
    (pushByte w b).toNat = w.toNat * 2 ^ 8 + b.toNat := by
  have hb := b.isLt
  have hw : w.toNat <<< 8 % 2 ^ 32 = w.toNat <<< 8 := by
    rw [Nat.shiftLeft_eq]
    exact Nat.mod_eq_of_lt (by omega)
  rw [pushByte, BitVec.toNat_or, BitVec.toNat_shiftLeft, BitVec.toNat_setWidth,
    Nat.mod_eq_of_lt (by omega : b.toNat < 2 ^ 32), hw, ← Nat.shiftLeft_add_eq_or_of_lt hb, Nat.shiftLeft_eq]

/-- A bit string put before a byte. -/
theorem toNat_append_byte {n : Nat} (x : BitVec n) (b : Byte) : (x ++ b).toNat = x.toNat * 2 ^ 8 + b.toNat := by
  rw [BitVec.toNat_append, ← Nat.shiftLeft_add_eq_or_of_lt b.isLt, Nat.shiftLeft_eq]

theorem foldl_pushByte (x y z u : Byte) : [x, y, z, u].foldl pushByte 0 = x ++ y ++ z ++ u := by
  have h1 : (pushByte 0 x).toNat = x.toNat := by
    rw [toNat_pushByte (by decide), show (0 : InsnWord).toNat = 0 from rfl, Nat.zero_mul, Nat.zero_add]
  have h2 := toNat_pushByte (w := pushByte 0 x) (b := y) (by omega)
  have h3 := toNat_pushByte (w := pushByte (pushByte 0 x) y) (b := z) (by omega)
  refine BitVec.eq_of_toNat_eq ?_
  rw [toNat_append_byte, toNat_append_byte, toNat_append_byte, List.foldl_cons, List.foldl_cons, List.foldl_cons,
    List.foldl_cons, List.foldl_nil, toNat_pushByte (by omega), h3, h2, h1]

/-- A word in the byte order of the machine is its four bytes put together (20_memory.md R66). -/
theorem wordOfBytes_four (big : Bool) (b0 b1 b2 b3 : Byte) :
    wordOfBytes big [b0, b1, b2, b3] = if big = true then b0 ++ b1 ++ b2 ++ b3 else b3 ++ b2 ++ b1 ++ b0 := by
  rw [wordOfBytes_eq]
  cases big
  · exact foldl_pushByte b3 b2 b1 b0
  · exact foldl_pushByte b0 b1 b2 b3

/-- Four bytes with a value are read in their order (20_memory.md R61). -/
theorem memRead_four {m : List Host.Cell} {a : Addr} {b0 b1 b2 b3 : Byte} (h0 : readByte m a.toNat = some b0)
    (h1 : readByte m (a + 1).toNat = some b1) (h2 : readByte m (a + 2).toNat = some b2)
    (h3 : readByte m (a + 3).toNat = some b3) : memRead m a 4 = .ok [b0, b1, b2, b3] := by
  have e2 : a + 1 + 1 = a + 2 := by bv_omega
  have e3 : a + 1 + 1 + 1 = a + 3 := by bv_omega
  rw [← e2] at h2
  rw [← e3] at h3
  simp only [memRead, h0, h1, h2, h3]

/-- Settles O5: the four bytes are fetched as the instruction, and with nothing pending nothing is delivered. -/
theorem stepRunsDecoded : Obligations.StepRunsDecoded := by
  intro s b0 b1 b2 b3 i htrap hp hpc h0 h1 h2 h3 hdec
  have hfetch : fetch s = .insn i := by
    unfold fetch
    rw [memRead_four h0 h1 h2 h3]
    dsimp only
    rw [wordOfBytes_four, hdec]
  rw [step_of_fetch htrap hpc hfetch, if_neg]
  simp [choosesTrap, mustTrapFirst, hp]

/-- Settles O6: a step from a trapped state is the fault, and `resume` clears the Trap. -/
theorem trapThenResume : Obligations.TrapThenResume := by
  intro s a pc' h
  have hres : resume pc' s =
      { s with trapAt := none, pending := false, pendingFprs := [], pendingFpscr := 0, pc := pc' } := by
    unfold resume
    rw [h]
  have hstep : step s = .fault (.trapped a) := by
    unfold step
    rw [h]
  rw [hres]
  exact ⟨hstep, rfl, rfl, rfl, rfl, rfl, rfl, rfl, rfl⟩

/-- Settles O9: every field is zero, empty or `none`. -/
theorem resetHasInv : Obligations.ResetHasInv :=
  ⟨reset_mem_wf, by decide, by decide, fun _ => ⟨rfl, rfl⟩, fun _ h => by cases h⟩

/-! ### The host's actions (70_reset_and_hazards.md R405, R410) -/

section
variable {s : State} (mask v : BitVec 64)

/-- With an exception pending `SetFPSCR` takes the trap and writes nothing (R410). -/
theorem hostSetFpscr_pending (h : s.pending = true) : hostSetFpscr mask v s = takeTrap s.pc s := by
  rw [hostSetFpscr, if_pos h]

/-- With nothing pending `SetFPSCR` writes; then it is done, or FEX is 1 and it raises (R405, 60_exceptions.md R376). -/
theorem hostSetFpscr_cases (h : s.pending = false) :
    (fexOf (mergeFpscr mask v s.fpscr) = false ∧ hostSetFpscr mask v s = s.setFpscr (mergeFpscr mask v s.fpscr)) ∨
    (fexOf (mergeFpscr mask v s.fpscr) = true ∧ hostSetFpscr mask v s =
      raiseEnabled [] (mask ||| maskOf [33, 34]) s.pc s.freeCount (s.setFpscr (mergeFpscr mask v s.fpscr)).drawFree) := by
  unfold hostSetFpscr
  rw [h, if_neg Bool.false_ne_true]
  dsimp only
  rw [setFpscr_fpscr]
  cases hf : fexOf (mergeFpscr mask v s.fpscr)
  · exact .inl ⟨rfl, if_neg Bool.false_ne_true⟩
  · exact .inr ⟨rfl, if_pos rfl⟩

theorem summariesHold_mergeFpscr (old : BitVec 64) : summariesHold (mergeFpscr mask v old) = true :=
  summariesHold_recomputed _

/-- `SetFPSCR` writes the selected bits and keeps the others, FEX and VX apart (R405). -/
theorem bitAt_mergeFpscr (old : BitVec 64) {b : Nat} (hb : b < 64) (h33 : b ≠ 33) (h34 : b ≠ 34) :
    bitAt (mergeFpscr mask v old) b = if bitAt mask b = true then bitAt v b else bitAt old b := by
  have hm : bitAt (maskOf [33, 34]) b = false := by
    rw [bitAt_maskOf (by decide) hb]
    simp [h33, h34]
  unfold mergeFpscr
  dsimp only
  rw [bitAt_recomputeSummaries_out _ _ hb ⟨h33, h34⟩]
  simp only [bitAt_or, bitAt_and, bitAt_not _ hb, hm]
  cases bitAt mask b <;> simp

/-- FEX after `SetFPSCR` is what it is of the register written. -/
theorem bitAt_mergeFpscr_fex (old : BitVec 64) : bitAt (mergeFpscr mask v old) 33 = fexOf (mergeFpscr mask v old) :=
  (summaries_recomputed _).2

theorem Inv.hostSetFpscr (h : Inv s) : Inv (hostSetFpscr mask v s) := by
  cases hp : s.pending
  · have hw := h.setFpscr (summariesHold_mergeFpscr mask v s.fpscr)
    rcases hostSetFpscr_cases mask v hp with ⟨-, he⟩ | ⟨-, he⟩ <;> rw [he]
    · exact hw
    · exact hw.drawFree.raiseEnabled _ _ h.pc _
  · rw [hostSetFpscr_pending mask v hp]
    exact h.takeTrap h.pc

/-- A Trap that `SetFPSCR` takes leaves nothing pending. -/
theorem hostSetFpscr_trap_notPending {a : Addr} (htrap : s.trapAt = none)
    (h : (hostSetFpscr mask v s).trapAt = some a) : (hostSetFpscr mask v s).pending = false := by
  cases hp : s.pending
  · rcases hostSetFpscr_cases mask v hp with ⟨-, he⟩ | ⟨-, he⟩ <;> rw [he] at h ⊢
    · exact hp
    · exact raiseEnabled_trap_notPending htrap h
  · rw [hostSetFpscr_pending mask v hp]
    rfl
end

/-- `GetFPSCR` answers a state only when it takes a pending trap (R410). -/
theorem hostGetFpscr_inl {s t : State} (h : hostGetFpscr s = .inl t) : t = takeTrap s.pc s := by
  unfold hostGetFpscr at h
  split at h
  · exact (Sum.inl.inj h).symm
  · cases h

theorem Inv.resume {s : State} (h : Inv s) {b : Addr} (hb : b.toNat % 4 = 0) : Inv (resume b s) := by
  unfold Machine.resume
  split
  · exact h
  · exact ⟨h.mem, hb, h.summaries, fun _ => ⟨rfl, rfl⟩, fun _ ha => by cases ha⟩

/-- Settles O10: each action writes one register, takes or drops a Trap, or raises. -/
theorem hostActionsKeepInv : Obligations.HostActionsKeepInv := by
  intro s h
  refine ⟨fun mask v => h.hostSetFpscr mask v, fun r v => ?_, fun f v => ?_, fun m => ?_, fun t ht => ?_,
    fun b hb => h.resume hb, fun htrap => ⟨fun mask v a => hostSetFpscr_trap_notPending mask v htrap, fun t ht => ?_⟩⟩
  · exact ⟨h.mem, h.pc, h.summaries, h.notPending, h.trapped⟩
  · exact ⟨h.mem, h.pc, h.summaries, h.notPending, h.trapped⟩
  · exact ⟨h.mem, h.pc, h.summaries, h.notPending, h.trapped⟩
  · exact hostGetFpscr_inl ht ▸ h.takeTrap h.pc
  · exact hostGetFpscr_inl ht ▸ ⟨rfl, rfl⟩

/-- Settles O60: `SetFPSCR` takes the pending trap, or merges and then, with FEX = 1, raises by the mode. -/
theorem hostFpscrAccess : Obligations.HostFpscrAccess := by
  intro s mask v
  constructor
  · intro hp
    have hget : hostGetFpscr s = .inr s.fpscr := by rw [hostGetFpscr, hp, if_neg Bool.false_ne_true]
    have hfex := bitAt_mergeFpscr_fex mask v s.fpscr
    refine ⟨hget, ?_⟩
    rcases hostSetFpscr_cases mask v hp with ⟨h0, he⟩ | ⟨h1, he⟩ <;> rw [he]
    · rw [h0] at hfex
      refine ⟨fun b hb => bitAt_mergeFpscr mask v s.fpscr hb, summariesHold_mergeFpscr mask v s.fpscr, rfl, rfl, rfl,
        fun _ => ⟨rfl, hp⟩, fun hx => ?_, fun hx => ?_⟩ <;> exact absurd (hfex.symm.trans hx) Bool.false_ne_true
    · rw [h1] at hfex
      simp only [raiseEnabled_fpscr, raiseEnabled_fpr, raiseEnabled_cr, drawFree_fpscr, setFpscr_fpscr]
      refine ⟨fun b hb => bitAt_mergeFpscr mask v s.fpscr hb, summariesHold_mergeFpscr mask v s.fpscr, rfl, rfl, ?_,
        ?_, ?_, ?_⟩
      · rcases raiseEnabled_cases [] (mask ||| maskOf [33, 34]) s.pc s.freeCount
          (s.setFpscr (mergeFpscr mask v s.fpscr)).drawFree with ⟨-, hr⟩ | ⟨-, hr⟩ | ⟨-, hr⟩ <;> rw [hr] <;> rfl
      · rintro (hx | hmode)
        · exact absurd (hx.symm.trans hfex) Bool.false_ne_true
        · rw [raiseEnabled_ignore _ _ _ _ _ (by simp [hmode])]
          exact ⟨rfl, hp⟩
      · intro _ hmode
        rw [raiseEnabled_precise _ _ _ _ _ (by simp [hmode])]
        exact ⟨rfl, rfl⟩
      · intro _ hmode
        rcases raiseEnabled_cases [] (mask ||| maskOf [33, 34]) s.pc s.freeCount
          (s.setFpscr (mergeFpscr mask v s.fpscr)).drawFree with ⟨hm, -⟩ | ⟨-, hr⟩ | ⟨-, hr⟩
        · rcases hmode with hmode | hmode <;> simp [hmode] at hm
        · exact .inl (by rw [hr]; rfl)
        · exact .inr (by rw [hr]; exact ⟨rfl, rfl⟩)
  · intro hp
    rw [hostSetFpscr_pending mask v hp]
    exact ⟨by rw [hostGetFpscr, if_pos hp], rfl, rfl, rfl, rfl, rfl⟩

end Sys2Proof.Machine
end

section
/-! What an instruction may change (41_dfp_execution_model.md R205 to R209): the registers and the FPSCR bits its effect
stays within, FX, the record form, and the exceptions it reports with those that are enabled (60_exceptions.md R375 to
R378). -/

namespace Sys2Proof.Machine

-- One proof at a time: elaborated in parallel, they need more memory than the check allows.
set_option Elab.async false

/-! ### FX, FR and FEX after `Commit` -/

/-- FX after `Commit`: as before, or 1 when a status bit went from 0 to 1 (10_state.md R33). -/
theorem bitAt_commitFpscr_fx (c : Commit) (v : BitVec 64) :
    bitAt (commitFpscr c v) 32 =
      (bitAt v 32 || statusBits.any (fun i => !bitAt v i && bitAt (commitFpscr c v) i)) := by
  have hexc : c.exc.any (fun x => x.bit == 32) = false :=
    List.any_eq_false.mpr fun x _ => by cases x <;> decide
  have hstatus : ∀ u, ∀ i ∈ statusBits, bitAt (recomputeSummaries (writeFX v u)) i = bitAt u i := by
    intro u i hi
    have hb : i < 64 ∧ 34 < i := by
      revert hi i
      decide
    rw [bitAt_recomputeSummaries_out _ _ hb.1 (by omega), bitAt_writeFX_out _ _ _ hb.1 (by omega)]
  have hany : ∀ u, statusBits.any (fun i => bitAt u i && !bitAt v i) =
      statusBits.any (fun i => !bitAt v i && bitAt (recomputeSummaries (writeFX v u)) i) := by
    intro u
    rw [Bool.eq_iff_iff, List.any_eq_true, List.any_eq_true]
    exact exists_congr fun i => and_congr_right fun hi => by rw [hstatus u i hi, Bool.and_comm]
  unfold commitFpscr
  rw [bitAt_recomputeSummaries_out _ _ (by omega) (by omega), bitAt_writeFX, hany,
    bitAt_writeFPCC_out _ _ _ (by omega) (by omega), bitAt_writeFPRF_out _ _ _ (by omega) (by omega),
    bitAt_writeFR _ _ _ (by omega), if_neg (by omega), bitAt_writeFI _ _ _ (by omega), if_neg (by omega),
    if_neg (by omega), bitAt_setExcBits _ _ _ (by omega)]
  simp [hexc]

/-- FX after an effect (10_state.md R33). -/
theorem bitAt_fpscrAfter_fx (e : Effect) (v : BitVec 64) :
    bitAt (e.fpscrAfter v) 32 = (bitAt v 32 || statusBits.any (fun i => !bitAt v i && bitAt (e.fpscrAfter v) i)) := by
  unfold Effect.fpscrAfter
  cases e.commit with
  | none => simp
  | some c => exact bitAt_commitFpscr_fx c v

/-- FR after `Commit` (10_state.md R39). -/
theorem bitAt_commitFpscr_fr (c : Commit) (v : BitVec 64) :
    bitAt (commitFpscr c v) 45 = c.fr.getD (bitAt v 45) := by
  have hexc : c.exc.any (fun x => x.bit == 45) = false :=
    List.any_eq_false.mpr fun x _ => by cases x <;> decide
  unfold commitFpscr
  rw [bitAt_recomputeSummaries_out _ _ (by omega) (by omega), bitAt_writeFX_out _ _ _ (by omega) (by omega),
    bitAt_writeFPCC_out _ _ _ (by omega) (by omega), bitAt_writeFPRF_out _ _ _ (by omega) (by omega),
    bitAt_writeFR _ _ _ (by omega), if_pos rfl, bitAt_writeFI _ _ _ (by omega), if_neg (by omega), if_neg (by omega),
    bitAt_setExcBits _ _ _ (by omega), hexc, Bool.or_false]

/-- The enables stay (10_state.md R43). -/
theorem enabled_commitFpscr (c : Commit) (v : BitVec 64) (k : ExcKind) :
    enabled (commitFpscr c v) k = enabled v k := by
  have hk : 56 ≤ k.enableBit ∧ k.enableBit ≤ 60 := by cases k <;> decide
  have hexc : ∀ x : Exc, (x.bit == k.enableBit) = false := fun x => by cases x <;> cases k <;> decide
  exact bitAt_commitFpscr_kept c v _ (by omega) (by omega) (List.any_eq_false.mpr fun x _ => by simp [hexc])
    (.inr (by omega)) (.inr (by omega)) (.inr (by omega)) (.inr (by omega))

/-- A status bit of an invalid operation makes VX 1 (10_state.md R35). -/
theorem vxOf_of_bit {v : BitVec 64} {b : Nat} (hb : b ∈ invalidBits) (h : bitAt v b = true) : vxOf v = true :=
  List.any_eq_true.mpr ⟨b, hb, h⟩

/-- An exception whose status bit and enable are 1 makes FEX 1 (10_state.md R34). -/
theorem fexOf_of_enabled {v : BitVec 64} {x : Exc} (hx : bitAt v x.bit = true) (he : enabled v x.kind = true) :
    fexOf v = true := by
  unfold fexOf
  cases x with
  | ox | ux | zx | xx =>
    have hs : bitAt v _ = true := hx
    have hen : bitAt v _ = true := he
    simp only [Exc.bit, Exc.kind, ExcKind.enableBit] at hs hen
    simp [hs, hen]
  | vxsnan | vxisi | vxidi | vxzdz | vximz | vxvc | vxcvi =>
    have hvx : vxOf v = true := vxOf_of_bit (by decide) hx
    have hen : bitAt v 56 = true := he
    simp [hvx, hen]

/-- The status bit of a reported exception is 1 afterwards. -/
theorem bitAt_fpscrAfter_exception {e : Effect} {x : Exc} (v : BitVec 64) (hx : x ∈ e.exceptions) :
    bitAt (e.fpscrAfter v) x.bit = true := by
  have hany : e.exceptions.any (fun y => y.bit == x.bit) = true := List.any_eq_true.mpr ⟨x, hx, beq_self_eq_true _⟩
  rw [bitAt_fpscrAfter_status _ _ _ x.bit_mem_statusBits, hany]
  simp

/-- The invalid operations are the exceptions whose bits VX is the OR of (10_state.md R35). -/
theorem kind_eq_invalid_iff (x : Exc) : x.kind = .invalid ↔ x.bit ∈ invalidBits := by cases x <;> decide

/-- VX is 1 after an effect that reports an invalid operation. -/
theorem bitAt_fpscrAfter_vx {e : Effect} {x : Exc} (v : BitVec 64) (hx : x ∈ e.exceptions) (hk : x.kind = .invalid) :
    bitAt (e.fpscrAfter v) 34 = true := by
  have hb := bitAt_fpscrAfter_exception v hx
  unfold Effect.exceptions at hx
  unfold Effect.fpscrAfter at hb ⊢
  cases hc : e.commit with
  | none => simp [hc] at hx
  | some c =>
    rw [hc] at hb
    exact (summaries_recomputed _).1.trans (vxOf_of_bit ((kind_eq_invalid_iff x).mp hk) hb)

/-! ### The exceptions that are raised -/

/-- What is raised are the kinds of the reported exceptions that are enabled (41_dfp_execution_model.md R205). -/
theorem raised_eq_nil_iff (e : Effect) (v : BitVec 64) :
    e.raised v = [] ↔ ∀ x ∈ e.exceptions, enabled v x.kind = false := by
  unfold Effect.raised Effect.exceptions
  cases e.commit with
  | none => simp
  | some c => simp [enabledNow, List.filter_eq_nil_iff]

/-- An effect that raises leaves FEX = 1 (10_state.md R34). -/
theorem bitAt_fpscrAfter_fex {e : Effect} {v : BitVec 64} (h : e.raised v ≠ []) : bitAt (e.fpscrAfter v) 33 = true := by
  rw [ne_eq, raised_eq_nil_iff, not_forall] at h
  obtain ⟨x, hx⟩ := h
  obtain ⟨hmem, hen⟩ := Classical.not_imp.mp hx
  have hbit := bitAt_fpscrAfter_exception v hmem
  unfold Effect.exceptions at hmem
  unfold Effect.fpscrAfter at hbit ⊢
  cases hc : e.commit with
  | none => simp [hc] at hmem
  | some c =>
    rw [hc] at hbit
    refine (summaries_recomputed _).2.trans (fexOf_of_enabled hbit ?_)
    exact (enabled_commitFpscr c v _).trans (by simpa using hen)

theorem enabled_of_noEnables {v : BitVec 64} (h : noEnables v = true) (k : ExcKind) : enabled v k = false := by
  simp only [noEnables, List.all_cons, List.all_nil, Bool.and_true, Bool.and_eq_true, Bool.not_eq_true'] at h
  obtain ⟨h56, h57, h58, h59, h60⟩ := h
  cases k <;> assumption

/-- With no enables nothing is raised (60_exceptions.md R375). -/
theorem raised_of_noEnables (e : Effect) {v : BitVec 64} (h : noEnables v = true) : e.raised v = [] :=
  (raised_eq_nil_iff e v).mpr fun _ _ => enabled_of_noEnables h _

/-- Nothing is raised, or exceptions are ignored: the instruction completes. -/
theorem finish_completed_of_noEnables (e : Effect) {s : State} (h : noEnables s.fpscr = true ∨ s.feMode = 0b00#2) :
    Completed s (finish e s) := by
  refine finish_completed e s (h.imp (raised_of_noEnables e) fun hm => ?_)
  rw [hm]
  exact excModeOf_00

/-- Settles O12: with no enables nothing is raised, and in Ignore Exceptions Mode no raise is taken. -/
theorem everyInstructionCompletes : Obligations.EveryInstructionCompletes := fun _ s hwf h =>
  ⟨_, exec_wellFormed hwf s, finish_completed_of_noEnables _ h⟩

/-- Settles O17: `Commit` only ORs into the sticky bits. -/
theorem stickyBitsStay : Obligations.StickyBitsStay := by
  intro i s t h b hb hset
  obtain ⟨-, rfl⟩ := exec_next h
  have hb' : b ∈ statusBits := by
    clear hset
    revert hb b
    decide
  rw [finish_fpscr, bitAt_fpscrAfter_status _ _ _ hb', hset]
  simp

/-- Settles O18: FX of the FPSCR after the effect. -/
theorem fxFollowsStatus : Obligations.FxFollowsStatus := by
  intro i s t h
  obtain ⟨-, rfl⟩ := exec_next h
  unfold newlySet
  rw [finish_fpscr]
  exact bitAt_fpscrAfter_fx (effectOf i s) s.fpscr

/-! ### The registers and FPSCR bits an effect stays within -/

/-- The registers that hold a value of a format in FRT[p] (10_state.md R22, R24). -/
def targetRegs (F : Format) (r : FReg) : List FReg :=
  match F with
  | .dfp32 | .dfp64 => [r]
  | .dfp128 => pairRegs r

theorem map_fst_targetWrites (F : Format) (r : FReg) (w : Nat) :
    (targetWrites F r w).map Prod.fst = targetRegs F r := by
  cases F <;> rfl

/-- The arguments of `Commit` touch only bits of a list: FX and XX only when they can be set. -/
structure Commit.Within (bits : List Nat) (c : Commit) : Prop where
  summaries : 33 ∈ bits ∧ 34 ∈ bits
  exc : ∀ x ∈ c.exc, 32 ∈ bits ∧ x.bit ∈ bits
  fi : c.fi = none ∨ 46 ∈ bits
  xx : c.fi = some true → 32 ∈ bits ∧ 38 ∈ bits
  fr : c.fr = none ∨ 45 ∈ bits
  fprf : c.fprf = none ∨ ∀ j, 47 ≤ j → j < 52 → j ∈ bits
  fpcc : c.fpcc = none ∨ ∀ j, 48 ≤ j → j < 52 → j ∈ bits

/-- A status bit outside the list is as before. -/
theorem Commit.Within.status_kept {bits : List Nat} {c : Commit} (h : c.Within bits) (v : BitVec 64) {j : Nat}
    (hj : j ∈ statusBits) (hout : 32 ∉ bits ∨ j ∉ bits) : bitAt (commitFpscr c v) j = bitAt v j := by
  have hexc : c.exc.any (fun x => x.bit == j) = false := by
    refine List.any_eq_false.mpr fun x hx hxj => ?_
    obtain ⟨h32, hbit⟩ := h.exc x hx
    exact hout.elim (· h32) (· (beq_iff_eq.mp hxj ▸ hbit))
  have hfi : (j == 38 && c.fi.getD false) = false := by
    rw [Bool.and_eq_false_iff, beq_eq_false_iff_ne]
    refine or_iff_not_imp_left.mpr fun hj38 => ?_
    rcases hcf : c.fi with _ | _ | _
    · rfl
    · rfl
    · obtain ⟨h32, h38⟩ := h.xx hcf
      rw [not_not.mp hj38] at hout
      exact hout.elim (absurd h32) (absurd h38)
  rw [bitAt_commitFpscr_status c v j hj, hexc, hfi, Bool.or_false, Bool.or_false]

/-- A bit outside the list is as before. -/
theorem Commit.Within.kept {bits : List Nat} {c : Commit} (h : c.Within bits) (v : BitVec 64) {j : Nat} (hj : j < 64)
    (hout : j ∉ bits) : bitAt (commitFpscr c v) j = bitAt v j := by
  by_cases hstatus : j ∈ statusBits
  · exact h.status_kept v hstatus (.inr hout)
  by_cases h32 : j = 32
  · subst h32
    have hany : statusBits.any (fun i => !bitAt v i && bitAt (commitFpscr c v) i) = false :=
      List.any_eq_false.mpr fun i hi => by simp [h.status_kept v hi (.inl hout)]
    rw [bitAt_commitFpscr_fx, hany, Bool.or_false]
  · have hne : ∀ k, k ∈ bits → j ≠ k := fun k hk hjk => hout (hjk ▸ hk)
    refine bitAt_commitFpscr_kept c v j hj ⟨h32, hne _ h.summaries.1, hne _ h.summaries.2⟩
      (List.any_eq_false.mpr fun x _ hx => hstatus (beq_iff_eq.mp hx ▸ x.bit_mem_statusBits))
      (h.fi.imp id fun h46 => ⟨fun hj38 => hstatus (hj38 ▸ by decide), hne _ h46⟩) (h.fr.imp id (hne _))
      (h.fprf.imp id fun hf => ?_) (h.fpcc.imp id fun hf => ?_)
    · by_contra hcon
      exact hout (hf j (by omega) (by omega))
    · by_contra hcon
      exact hout (hf j (by omega) (by omega))

/-- An effect writes only registers of a list and commits only bits of a list. -/
structure Effect.Within (regs : List FReg) (bits : List Nat) (e : Effect) : Prop where
  fprs : e.fprs.map Prod.fst ⊆ regs
  commit : ∀ c, e.commit = some c → c.Within bits

theorem Effect.Within.kept {regs : List FReg} {bits : List Nat} {e : Effect} (h : e.Within regs bits) (v : BitVec 64)
    {j : Nat} (hj : j < 64) (hout : j ∉ bits) : bitAt (e.fpscrAfter v) j = bitAt v j := by
  unfold Effect.fpscrAfter
  cases hc : e.commit with
  | none => rfl
  | some c => exact (h.commit c hc).kept v hj hout

/-! ### Each operation that builds an effect stays within its targets -/

/-- The bits of an instruction that writes FR, FI and FPRF, and the status bits of a list. -/
abbrev resultTargets (more : List Nat) : List Nat := summaryBits ++ resultBits ++ more

theorem mem_resultTargets {more : List Nat} {j : Nat} (h : j ∈ summaryBits ∨ j ∈ resultBits ∨ j ∈ more) :
    j ∈ resultTargets more := by
  simpa [or_assoc] using h

/-- A `Commit` with FR, FI and FPRF, whose status bits are in a list. -/
theorem commit_within_result {more : List Nat} {c : Commit} (hexc : ∀ x ∈ c.exc, x.bit ∈ more)
    (hxx : c.fi = some true → 38 ∈ more) (hfpcc : c.fpcc = none) : c.Within (resultTargets more) where
  summaries := ⟨mem_resultTargets (.inl (by decide)), mem_resultTargets (.inl (by decide))⟩
  exc x hx := ⟨mem_resultTargets (.inl (by decide)), mem_resultTargets (.inr (.inr (hexc x hx)))⟩
  fi := .inr (mem_resultTargets (.inr (.inl (by decide))))
  xx h := ⟨mem_resultTargets (.inl (by decide)), mem_resultTargets (.inr (.inr (hxx h)))⟩
  fr := .inr (mem_resultTargets (.inr (.inl (by decide))))
  fprf := .inr fun j h1 h2 => mem_resultTargets (.inr (.inl (by simp [resultBits]; omega)))
  fpcc := .inl hfpcc

section
variable {F : Format} {frt : FReg} {rc : Bool} {fpscr : BitVec 64} {more : List Nat}

/-- An effect that writes a value of a format to FRT[p], or nothing, and commits a result. -/
theorem within_result {e : Effect} (hfprs : e.fprs.map Prod.fst ⊆ targetRegs F frt)
    (hexc : ∀ x ∈ e.exceptions, x.bit ∈ more) (hxx : e.newFi = some true → 38 ∈ more)
    (hfpcc : ∀ c, e.commit = some c → c.fpcc = none) : e.Within (targetRegs F frt) (resultTargets more) := by
  refine ⟨hfprs, fun c hc => commit_within_result ?_ ?_ (hfpcc c hc)⟩
  · simpa [Effect.exceptions, hc] using hexc
  · simpa [Effect.newFi, hc] using hxx

theorem map_fst_targetWrites_subset (w : Nat) : (targetWrites F frt w).map Prod.fst ⊆ targetRegs F frt :=
  fun _ h => map_fst_targetWrites F frt _ ▸ h

theorem map_fst_dfpWrites_subset (d : Dfp) : (dfpWrites F frt d).map Prod.fst ⊆ targetRegs F frt :=
  map_fst_targetWrites_subset _

theorem exactEffect_within (d : Dfp) : (exactEffect F frt rc d).Within (targetRegs F frt) (resultTargets more) :=
  within_result (map_fst_dfpWrites_subset d) (by simp [exactEffect, Effect.exceptions])
    (by simp [exactEffect, Effect.newFi]) (by rintro c ⟨⟩; rfl)

theorem suppressedEffect_within {exc : List Exc} (h : ∀ x ∈ exc, x.bit ∈ more) :
    (suppressedEffect exc rc).Within (targetRegs F frt) (resultTargets more) :=
  within_result (List.nil_subset _) h (by simp [suppressedEffect, Effect.newFi]) (by rintro c ⟨⟩; rfl)

theorem defaultEffect_within {exc : List Exc} (d : Dfp) (h : ∀ x ∈ exc, x.bit ∈ more) :
    (defaultEffect F frt rc exc d).Within (targetRegs F frt) (resultTargets more) :=
  within_result (map_fst_dfpWrites_subset d) h (by simp [defaultEffect, Effect.newFi]) (by rintro c ⟨⟩; rfl)

theorem invalidEffect_within {exc : List Exc} (q : Dfp) (h : ∀ x ∈ exc, x.bit ∈ more) :
    (invalidEffect F frt rc fpscr exc q).Within (targetRegs F frt) (resultTargets more) := by
  unfold invalidEffect
  split
  · exact suppressedEffect_within h
  · exact defaultEffect_within q h

theorem zeroDivideEffect_within (s : Bool) (h : 37 ∈ more) :
    (zeroDivideEffect F frt rc fpscr s).Within (targetRegs F frt) (resultTargets more) := by
  have hzx : ∀ x ∈ [Exc.zx], x.bit ∈ more := fun x hx => List.mem_singleton.mp hx ▸ h
  unfold zeroDivideEffect
  split
  · exact suppressedEffect_within hzx
  · exact defaultEffect_within _ hzx

/-- The exceptions `Deliver` can cause (41_dfp_execution_model.md R196 to R199). -/
theorem deliver_exc_subset (hi : Int) (s : Bool) (v : Mag) (ideal : Int) (mode : RMode) (alpha : Int)
    (fpscr : BitVec 64) : (deliver F hi s v ideal mode alpha fpscr).exc ⊆ [.ox, .ux, .xx] := by
  rcases deliver_cases F hi s v ideal mode alpha fpscr with
    ⟨-, -, h⟩ | ⟨-, -, h⟩ | ⟨-, -, -, h⟩ | ⟨-, -, -, h⟩ | ⟨-, -, h⟩ <;> rw [h]
  · intro x
    simp only [deliverWrapped, List.mem_cons, mem_xxIf]
    tauto
  · unfold deliverOverflow
    split <;> simp
  · intro x
    simp only [deliverWrapped, List.mem_cons, mem_xxIf]
    tauto
  · simp only [deliverTiny]
    split <;> simp
  · intro x
    simp only [deliverNormal, List.mem_cons, mem_xxIf]
    tauto

/-- FI is set by `Deliver` only with inexact. -/
theorem deliver_status_mem {r : Delivered} (hexc : r.exc ⊆ [.ox, .ux, .xx]) (hmore : 35 ∈ more ∧ 36 ∈ more ∧ 38 ∈ more) :
    (∀ x ∈ r.exc, x.bit ∈ more) := by
  obtain ⟨h35, h36, h38⟩ := hmore
  intro x hx
  have := hexc hx
  simp only [List.mem_cons, List.not_mem_nil, or_false] at this
  rcases this with rfl | rfl | rfl
  · exact h35
  · exact h36
  · exact h38

theorem deliveredEffect_within {r : Delivered} (hexc : r.exc ⊆ [.ox, .ux, .xx])
    (hmore : 35 ∈ more ∧ 36 ∈ more ∧ 38 ∈ more) :
    (deliveredEffect F frt rc r).Within (targetRegs F frt) (resultTargets more) :=
  within_result (map_fst_dfpWrites_subset r.d) (deliver_status_mem hexc hmore) (fun _ => hmore.2.2)
    (by rintro c ⟨⟩; rfl)

theorem adjustedEffect_within (d : Dfp) {fi : Bool} (fr : Bool) (h : fi = true → 38 ∈ more) :
    (adjustedEffect F frt rc d fi fr).Within (targetRegs F frt) (resultTargets more) := by
  refine within_result (map_fst_dfpWrites_subset d) (fun x hx => ?_) (fun hfi => h (Option.some.inj hfi))
    (by rintro c ⟨⟩; rfl)
  obtain ⟨hfi, rfl⟩ := (mem_xxIf x fi).mp hx
  exact h hfi

/-! ### Arithmetic -/

/-- The exceptions of an action besides those of rounding are in a list. -/
def Action.ExcIn (l : List Exc) : Action → Prop
  | .invalid exc _ => exc ⊆ l
  | .zeroDivide _ => .zx ∈ l
  | .exact _ | .rounded _ _ _ => True

theorem nanAction_excIn {l : List Exc} (h : .vxsnan ∈ l) (a b : Dfp) : (nanAction a b).ExcIn l := by
  unfold nanAction
  split
  · exact fun x hx => List.mem_singleton.mp hx ▸ h
  · trivial

theorem addTable_excIn (mode : RMode) (a b : Dfp) : (addTable mode a b).ExcIn [.vxsnan, .vxisi] := by
  unfold addTable
  split
  · simp only [addFinite]
    split <;> trivial
  · split
    · trivial
    · exact fun x hx => List.mem_cons_of_mem _ hx
  · trivial
  · trivial
  all_goals exact nanAction_excIn List.mem_cons_self _ _

theorem mulTable_excIn (a b : Dfp) : (mulTable F a b).ExcIn [.vxsnan, .vximz] := by
  unfold mulTable
  split
  · split <;> trivial
  · trivial
  · split
    · exact fun x hx => List.mem_cons_of_mem _ hx
    · trivial
  · split
    · exact fun x hx => List.mem_cons_of_mem _ hx
    · trivial
  all_goals exact nanAction_excIn List.mem_cons_self _ _

theorem divTable_excIn (a b : Dfp) : (divTable F a b).ExcIn [.zx, .vxsnan, .vxidi, .vxzdz] := by
  unfold divTable
  split
  · split
    · exact fun x hx => List.mem_singleton.mp hx ▸ (by simp)
    · split
      · exact List.mem_cons_self
      · split <;> trivial
  · exact fun x hx => List.mem_singleton.mp hx ▸ (by simp)
  · trivial
  · trivial
  all_goals exact nanAction_excIn (by simp) _ _

theorem arithEffect_within {act : Action} {l : List Exc} (h : act.ExcIn l)
    (hmore : ∀ x ∈ l ++ [.ox, .ux, .xx], x.bit ∈ more) :
    (arithEffect F frt rc fpscr act).Within (targetRegs F frt) (resultTargets more) := by
  have hl : ∀ x ∈ l, x.bit ∈ more := fun x hx => hmore x (List.mem_append_left _ hx)
  cases act with
  | invalid exc q => exact invalidEffect_within q fun x hx => hl x (h hx)
  | zeroDivide s => exact zeroDivideEffect_within s (hl .zx h)
  | exact d => exact exactEffect_within d
  | rounded s v ideal =>
    exact deliveredEffect_within (deliver_exc_subset ..)
      ⟨hmore .ox (by simp), hmore .ux (by simp), hmore .xx (by simp)⟩

/-! ### Quantum adjustment -/

/-- What a quantum adjustment can answer: an invalid operation of a list of exceptions, or a result, inexact where a flag
allows it. -/
def Adjusted.ExcIn (l : List Exc) (inexact : Bool) : Adjusted → Prop
  | .invalid exc _ => exc ⊆ l
  | .result _ fi _ => fi = true → inexact = true

theorem quantize_excIn (a b : Dfp) (mode : RMode) : (quantize F a b mode).ExcIn [.vxsnan, .vxcvi] true := by
  unfold quantize
  split
  · simp only [quantizeFinite]
    split
    · exact fun _ => rfl
    · split
      · split
        · exact fun x hx => List.mem_cons_of_mem _ hx
        · exact fun _ => rfl
      · split <;> exact fun _ => rfl
  · exact fun _ => rfl
  · exact fun x hx => List.mem_cons_of_mem _ hx
  · exact fun x hx => List.mem_cons_of_mem _ hx
  all_goals
    split
    · exact fun x hx => List.mem_singleton.mp hx ▸ List.mem_cons_self
    · exact fun _ => rfl

theorem reround_excIn (k : Nat) (b : Dfp) (mode : RMode) : (reround F k b mode).ExcIn [.vxsnan, .vxcvi] true := by
  cases b with
  | snan s cc => exact fun x hx => List.mem_singleton.mp hx ▸ List.mem_cons_self
  | qnan s cc => exact fun _ => rfl
  | inf s cc => exact fun _ => rfl
  | fin s c e =>
    simp only [reround, reroundFinite]
    split
    · exact fun _ => rfl
    · generalize (if (roundInt mode s c (10 ^ (digits c - k))).n = 10 ^ k then _ else _ : Int) = e3
      split
      · exact fun x hx => List.mem_cons_of_mem _ hx
      · exact fun _ => rfl

theorem roundToInt_excIn (b : Dfp) (mode : RMode) (withInexact : Bool) :
    (roundToInt b mode withInexact).ExcIn [.vxsnan] withInexact := by
  cases b with
  | snan s cc => exact List.Subset.refl _
  | qnan s cc => exact fun h => Bool.noConfusion h
  | inf s cc => exact fun h => Bool.noConfusion h
  | fin s c e =>
    simp only [roundToInt]
    split
    · exact fun h => Bool.noConfusion h
    · cases withInexact
      · exact fun h => Bool.noConfusion h
      · exact fun _ => rfl

theorem adjustEffect_within {o : Adjusted} {l : List Exc} {inexact : Bool} (h : o.ExcIn l inexact)
    (hl : ∀ x ∈ l, x.bit ∈ more) (h38 : inexact = true → 38 ∈ more) :
    (adjustEffect F frt rc fpscr o).Within (targetRegs F frt) (resultTargets more) := by
  cases o with
  | invalid exc q => exact invalidEffect_within q fun x hx => hl x (h hx)
  | result d fi fr => exact adjustedEffect_within d fr fun hfi => h38 (h hfi)

/-! ### Compare, test, conversion and format -/

/-- The tests commit FPCC alone (44_test.md R250). -/
theorem codeEffect_nil_within (bf : CRField) (code : BitVec 4) :
    (codeEffect bf [] code).Within [] ([33, 34] ++ fpccBits) := by
  refine ⟨List.nil_subset _, ?_⟩
  rintro c ⟨⟩
  exact ⟨by decide, by simp, .inl rfl, by simp, .inl rfl, .inl rfl,
    .inr fun j h1 h2 => by simp [fpccBits]; omega⟩

/-- A compare commits FPCC and its exceptions (43_compare.md R241, R246). -/
theorem codeEffect_within (bf : CRField) {exc : List Exc} (code : BitVec 4) (h : ∀ x ∈ exc, x.bit ∈ more) :
    (codeEffect bf exc code).Within [] (summaryBits ++ fpccBits ++ more) := by
  refine ⟨List.nil_subset _, ?_⟩
  rintro c ⟨⟩
  exact ⟨by simp [summaryBits], fun x hx => ⟨by simp [summaryBits], List.mem_append_right _ (h x hx)⟩, .inl rfl,
    by simp, .inl rfl, .inl rfl, .inr fun j h1 h2 => by simp [fpccBits]; omega⟩

theorem compareEffect_within (ordered : Bool) (bf : CRField) (fra frb : FReg) (s : State) (h39 : 39 ∈ more)
    (h44 : ordered = true → 44 ∈ more) :
    (compareEffect ordered F bf fra frb s).Within [] (summaryBits ++ fpccBits ++ more) := by
  refine codeEffect_within bf _ fun x hx => ?_
  rcases compareExc_cases ordered (enabled s.fpscr .invalid) (sourceDfp F s fra) (sourceDfp F s frb) with
    h | h | ⟨hord, h | h⟩ <;> rw [h] at hx
  · cases hx
  · rw [List.mem_singleton.mp hx]
    exact h39
  · rw [List.mem_singleton.mp hx]
    exact h44 hord
  · rcases List.mem_pair.mp hx with rfl | rfl
    · exact h39
    · exact h44 hord

/-- A conversion that only sets FPRF (46_conversion.md R301, R305). -/
theorem convertedEffect_within (d : Dfp) :
    (convertedEffect F frt rc d).Within (targetRegs F frt) ([33, 34, 47] ++ fpccBits) := by
  refine ⟨map_fst_dfpWrites_subset d, ?_⟩
  rintro c ⟨⟩
  exact ⟨by decide, by simp, .inl rfl, by simp, .inl rfl, .inr fun j h1 h2 => by simp [fpccBits]; omega, .inl rfl⟩

/-- An instruction that calls no `Commit` leaves the FPSCR alone (47_format.md R330). -/
theorem plainEffect_within {regs : List FReg} {ws : List (FReg × Doubleword)} (h : ws.map Prod.fst ⊆ regs) :
    (plainEffect ws rc).Within regs [] :=
  ⟨h, nofun⟩

theorem toDfp128Effect_within (frb : FReg) (s : State) :
    (toDfp128Effect frt frb rc s).Within (targetRegs .dfp128 frt) (resultTargets [39]) := by
  unfold toDfp128Effect
  split
  · exact invalidEffect_within _ (by decide)
  all_goals exact exactEffect_within _

theorem specialNarrowEffect_within {Ft : Format} {ws : List (FReg × Doubleword)} {exc : List Exc} (d : Dfp)
    (hws : ws.map Prod.fst ⊆ targetRegs F frt) (h : ∀ x ∈ exc, x.bit ∈ more) :
    (specialNarrowEffect Ft ws rc exc d).Within (targetRegs F frt) (resultTargets more) :=
  within_result hws h (by simp [specialNarrowEffect, Effect.newFi]) (by rintro c ⟨⟩; rfl)

theorem narrowFinite_exc_subset (Fs Ft : Format) (alpha : Int) (sg : Bool) (c : Nat) (e : Int) (fpscr : BitVec 64) :
    (narrowFinite Fs Ft alpha sg c e fpscr).exc ⊆ [.ox, .ux, .xx] := by
  unfold narrowFinite
  split
  · exact List.nil_subset _
  · exact deliver_exc_subset ..

theorem narrowedEffect_within {Ft : Format} {ws : Dfp → List (FReg × Doubleword)} {r : Delivered}
    (hws : ∀ d, (ws d).map Prod.fst ⊆ targetRegs F frt) (hexc : r.exc ⊆ [.ox, .ux, .xx])
    (hmore : 35 ∈ more ∧ 36 ∈ more ∧ 38 ∈ more) :
    (narrowedEffect F Ft frt ws rc r).Within (targetRegs F frt) (resultTargets more) := by
  refine within_result ?_ (deliver_status_mem hexc hmore) (fun _ => hmore.2.2) (by rintro c ⟨⟩; rfl)
  simp only [narrowedEffect]
  split
  · exact map_fst_dfpWrites_subset r.d
  · exact hws r.d

theorem roundToDfp32Effect_within (frb : FReg) (s : State) :
    (roundToDfp32Effect frt frb rc s).Within (targetRegs .dfp64 frt) (resultTargets [35, 36, 38]) := by
  have hws : ∀ d, (narrow32Writes (Config.drspPad s.freeCount) frt d).map Prod.fst ⊆ targetRegs .dfp64 frt :=
    fun _ => List.Subset.refl _
  simp only [roundToDfp32Effect]
  split
  iterate 3 exact specialNarrowEffect_within _ (hws _) (by simp)
  exact narrowedEffect_within hws (narrowFinite_exc_subset ..) (by decide)

theorem roundToDfp64Effect_within (frb : FReg) (s : State) :
    (roundToDfp64Effect frt frb rc s).Within (targetRegs .dfp128 frt) (resultTargets [35, 36, 38, 39]) := by
  have hws : ∀ d, (narrow64Writes (Config.drdpqPad s.freeCount) frt d).map Prod.fst ⊆ targetRegs .dfp128 frt :=
    fun _ => List.Subset.refl _
  simp only [roundToDfp64Effect]
  split
  · split
    · exact suppressedEffect_within (by decide)
    · exact specialNarrowEffect_within _ (hws _) (by decide)
  · exact specialNarrowEffect_within _ (hws _) (by simp)
  · exact specialNarrowEffect_within _ (hws _) (by simp)
  · exact narrowedEffect_within hws (narrowFinite_exc_subset ..) (by decide)

/-- Convert To Fixed leaves FPRF (46_conversion.md R306). -/
theorem toFixedEffect_within (frb : FReg) (s : State) :
    (toFixedEffect F frt frb rc s).Within [frt] (summaryBits ++ [38, 39, 45, 46, 55]) := by
  unfold toFixedEffect
  split
  · next exc v h =>
    refine ⟨?_, ?_⟩
    · dsimp only
      split <;> simp
    · rintro c ⟨⟩
      refine ⟨by decide, ?_, .inr (by decide), by simp, .inr (by decide), .inl rfl, .inl rfl⟩
      rcases toFixed_invalid h with rfl | rfl <;> decide
  · next v fi fr h =>
    refine ⟨List.Subset.refl _, ?_⟩
    rintro c ⟨⟩
    refine ⟨by decide, fun x hx => ?_, .inr (by decide), fun _ => by decide, .inr (by decide), .inl rfl, .inl rfl⟩
    obtain ⟨-, rfl⟩ := (mem_xxIf x fi).mp hx
    decide

theorem encodeBcdEffect_within (sgn : Bool) (frb : FReg) (s : State) :
    (encodeBcdEffect F frt sgn frb rc s).Within (targetRegs F frt) (resultTargets [55]) := by
  unfold encodeBcdEffect
  split
  · exact invalidEffect_within _ (by decide)
  · exact exactEffect_within _
end

/-- Every instruction stays within its registers and FPSCR bits (41_dfp_execution_model.md R207). -/
theorem effectOf_within (i : Instr) (s : State) : (effectOf i s).Within (fprTargets i) (fpscrTargets i) := by
  cases i with
  | dadd | dsub =>
    exact arithEffect_within (F := .dfp64) (more := [35, 36, 38, 39, 40]) (addTable_excIn ..) (by decide)
  | daddq | dsubq =>
    exact arithEffect_within (F := .dfp128) (more := [35, 36, 38, 39, 40]) (addTable_excIn ..) (by decide)
  | dmul =>
    exact arithEffect_within (F := .dfp64) (more := [35, 36, 38, 39, 43]) (mulTable_excIn ..) (by decide)
  | dmulq =>
    exact arithEffect_within (F := .dfp128) (more := [35, 36, 38, 39, 43]) (mulTable_excIn ..) (by decide)
  | ddiv =>
    exact arithEffect_within (F := .dfp64) (more := [35, 36, 37, 38, 39, 41, 42]) (divTable_excIn ..) (by decide)
  | ddivq =>
    exact arithEffect_within (F := .dfp128) (more := [35, 36, 37, 38, 39, 41, 42]) (divTable_excIn ..) (by decide)
  | dcmpu | dcmpuq => exact compareEffect_within (more := [39]) false _ _ _ s (by decide) nofun
  | dcmpo | dcmpoq => exact compareEffect_within (more := [39, 44]) true _ _ _ s (by decide) (fun _ => by decide)
  | dtstdc | dtstdcq | dtstdg | dtstdgq | dtstex | dtstexq | dtstsf | dtstsfq => exact codeEffect_nil_within _ _
  | dquai | dqua =>
    exact adjustEffect_within (F := .dfp64) (more := [38, 39, 55]) (quantize_excIn ..) (by decide) (fun _ => by decide)
  | drrnd =>
    exact adjustEffect_within (F := .dfp64) (more := [38, 39, 55]) (reround_excIn ..) (by decide) (fun _ => by decide)
  | drintx =>
    exact adjustEffect_within (F := .dfp64) (more := [38, 39]) (roundToInt_excIn ..) (by decide) (fun _ => by decide)
  | drintn =>
    exact adjustEffect_within (F := .dfp64) (more := [39]) (roundToInt_excIn ..) (by decide) (fun h => Bool.noConfusion h)
  | dquaiq | dquaq =>
    exact adjustEffect_within (F := .dfp128) (more := [38, 39, 55]) (quantize_excIn ..) (by decide) (fun _ => by decide)
  | drrndq =>
    exact adjustEffect_within (F := .dfp128) (more := [38, 39, 55]) (reround_excIn ..) (by decide) (fun _ => by decide)
  | drintxq =>
    exact adjustEffect_within (F := .dfp128) (more := [38, 39]) (roundToInt_excIn ..) (by decide) (fun _ => by decide)
  | drintnq =>
    exact adjustEffect_within (F := .dfp128) (more := [39]) (roundToInt_excIn ..) (by decide) (fun h => Bool.noConfusion h)
  | dctdp => exact convertedEffect_within (F := .dfp64) _
  | dcffixq => exact convertedEffect_within (F := .dfp128) _
  | dctqpq => exact toDfp128Effect_within _ s
  | drsp => exact roundToDfp32Effect_within _ s
  | drdpq => exact roundToDfp64Effect_within _ s
  | dctfix | dctfixq => exact toFixedEffect_within _ s
  | denbcd => exact encodeBcdEffect_within (F := .dfp64) _ _ s
  | denbcdq => exact encodeBcdEffect_within (F := .dfp128) _ _ s
  | dxex | dxexq => exact plainEffect_within (List.Subset.refl _)
  | ddedpd | diex | dscli | dscri => exact plainEffect_within (map_fst_targetWrites_subset (F := .dfp64) _)
  | ddedpdq | diexq | dscliq | dscriq => exact plainEffect_within (map_fst_targetWrites_subset (F := .dfp128) _)

/-! ### The record form and the field BF (41_dfp_execution_model.md R208) -/

section
variable {F : Format} {frt : FReg} {rc : Bool} {fpscr : BitVec 64}

/-- The effect writes no field BF, and has a record bit. -/
def Effect.Records (rc : Bool) (e : Effect) : Prop := e.crBF = none ∧ e.rc = rc

theorem invalidEffect_records (exc : List Exc) (q : Dfp) : (invalidEffect F frt rc fpscr exc q).Records rc := by
  unfold invalidEffect
  split <;> exact ⟨rfl, rfl⟩

theorem arithEffect_records (act : Action) : (arithEffect F frt rc fpscr act).Records rc := by
  cases act with
  | invalid exc q => exact invalidEffect_records exc q
  | zeroDivide s =>
    simp only [arithEffect, zeroDivideEffect]
    split <;> exact ⟨rfl, rfl⟩
  | exact d => exact ⟨rfl, rfl⟩
  | rounded s v ideal => exact ⟨rfl, rfl⟩

theorem adjustEffect_records (o : Adjusted) : (adjustEffect F frt rc fpscr o).Records rc := by
  cases o with
  | invalid exc q => exact invalidEffect_records exc q
  | result d fi fr => exact ⟨rfl, rfl⟩

theorem toDfp128Effect_records (frb : FReg) (s : State) : (toDfp128Effect frt frb rc s).Records rc := by
  unfold toDfp128Effect
  split
  · exact invalidEffect_records _ _
  all_goals exact ⟨rfl, rfl⟩

theorem roundToDfp32Effect_records (frb : FReg) (s : State) : (roundToDfp32Effect frt frb rc s).Records rc := by
  simp only [roundToDfp32Effect]
  split <;> exact ⟨rfl, rfl⟩

theorem roundToDfp64Effect_records (frb : FReg) (s : State) : (roundToDfp64Effect frt frb rc s).Records rc := by
  simp only [roundToDfp64Effect]
  split
  · split <;> exact ⟨rfl, rfl⟩
  all_goals exact ⟨rfl, rfl⟩

theorem toFixedEffect_records (frb : FReg) (s : State) : (toFixedEffect F frt frb rc s).Records rc := by
  unfold toFixedEffect
  split <;> exact ⟨rfl, rfl⟩

theorem encodeBcdEffect_records (sgn : Bool) (frb : FReg) (s : State) :
    (encodeBcdEffect F frt sgn frb rc s).Records rc := by
  unfold encodeBcdEffect
  split
  · exact invalidEffect_records _ _
  · exact ⟨rfl, rfl⟩
end

/-- What an instruction does with the CR: a code in its field BF, or the record form. -/
theorem effectOf_cr_cases (i : Instr) (s : State) :
    (isCompareOrTest i = true ∧ ∃ bf code, crTargets i = [bf] ∧ (effectOf i s).crBF = some (bf, code) ∧
      (effectOf i s).rc = false) ∨
    (isCompareOrTest i = false ∧ crTargets i = (if recordBit i = true then [1] else []) ∧
      (effectOf i s).Records (recordBit i)) := by
  cases i with
  | dcmpu | dcmpuq | dcmpo | dcmpoq | dtstdc | dtstdcq | dtstdg | dtstdgq | dtstex | dtstexq | dtstsf | dtstsfq =>
    exact .inl ⟨rfl, _, _, rfl, rfl, rfl⟩
  | dadd | daddq | dsub | dsubq | dmul | dmulq | ddiv | ddivq => exact .inr ⟨rfl, rfl, arithEffect_records _⟩
  | dquai | dquaiq | dqua | dquaq | drrnd | drrndq | drintx | drintxq | drintn | drintnq =>
    exact .inr ⟨rfl, rfl, adjustEffect_records _⟩
  | dctqpq => exact .inr ⟨rfl, rfl, toDfp128Effect_records _ s⟩
  | drsp => exact .inr ⟨rfl, rfl, roundToDfp32Effect_records _ s⟩
  | drdpq => exact .inr ⟨rfl, rfl, roundToDfp64Effect_records _ s⟩
  | dctfix | dctfixq => exact .inr ⟨rfl, rfl, toFixedEffect_records _ s⟩
  | denbcd | denbcdq => exact .inr ⟨rfl, rfl, encodeBcdEffect_records _ _ s⟩
  | dctdp | dcffixq | ddedpd | ddedpdq | dxex | dxexq | diex | diexq | dscli | dscliq | dscri | dscriq =>
    exact .inr ⟨rfl, rfl, rfl, rfl⟩

/-- The CR after an instruction with a record bit. -/
theorem finish_cr_of_records {e : Effect} {rc : Bool} (h : e.Records rc) (s : State) :
    (finish e s).cr = if rc = true then s.cr.set 1 (recordBits (e.fpscrAfter s.fpscr)) else s.cr := by
  obtain ⟨hbf, hrc⟩ := h
  rw [finish_cr, applyEffect_cr, hbf, hrc]
  cases rc <;> rfl

/-- The CR after a compare or test. -/
theorem finish_cr_of_code {e : Effect} {bf : CRField} {code : BitVec 4} (hbf : e.crBF = some (bf, code))
    (hrc : e.rc = false) (s : State) : (finish e s).cr = s.cr.set bf code := by
  rw [finish_cr, applyEffect_cr, hbf, hrc]
  rfl

/-- A field of the CR after one was set. -/
theorem cr_getElem_set (v : Vector (BitVec 4) 8) (f g : CRField) (x : BitVec 4) :
    (v.set f x)[g] = if f = g then x else v[g] := by
  simp only [Fin.getElem_fin, Vector.getElem_set, Fin.ext_iff]

/-- Settles O21: without a field BF, the record form writes CR[1] from the FPSCR the effect leaves. -/
theorem recordFormCopies : Obligations.RecordFormCopies := by
  intro i s t h hnc
  obtain ⟨-, rfl⟩ := exec_next h
  rcases effectOf_cr_cases i s with ⟨hc, -⟩ | ⟨-, -, hrec⟩
  · exact absurd (hnc.symm.trans hc) Bool.false_ne_true
  · rw [finish_cr_of_records hrec, finish_fpscr]
    refine ⟨fun hb => ?_, fun hb => ?_⟩
    · rw [if_pos hb]
      exact (cr_getElem_set s.cr 1 1 _).trans (if_pos rfl)
    · rw [hb, if_neg Bool.false_ne_true]

/-- Settles O11: every effect stays within its targets, and retiring changes nothing else. -/
theorem instructionFrame : Obligations.InstructionFrame := by
  intro i s t h
  obtain ⟨-, rfl⟩ := exec_next h
  have hw := effectOf_within i s
  refine ⟨fun r hr => readFpr_finish_kept _ s r fun hmem => hr (hw.fprs hmem), ?_, fun j hj hout => ?_, fun a => ?_,
    finish_feMode _ s, finish_insnBigEndian _ s⟩
  · rcases effectOf_cr_cases i s with ⟨-, bf, code, htgt, hbf, hrc⟩ | ⟨-, htgt, hrec⟩ <;> intro f hf <;> rw [htgt] at hf
    · rw [finish_cr_of_code hbf hrc, cr_getElem_set, if_neg (fun he => hf (List.mem_singleton.mpr he.symm))]
    · rw [finish_cr_of_records hrec]
      split
      · next hb =>
        rw [if_pos hb, List.mem_singleton] at hf
        exact (cr_getElem_set s.cr 1 f _).trans (if_neg (Ne.symm hf))
      · rfl
  · rw [finish_fpscr]
    exact hw.kept s.fpscr hj hout
  · rw [finish_mem]

end Sys2Proof.Machine
end

section
/-! What an instruction causes (60_exceptions.md R375 to R378): its effect depends on the registers, DRN and the enables
alone, so what it causes is what its effect reports; and an enabled invalid operation suppresses the result
(41_dfp_execution_model.md R192, R193). -/

namespace Sys2Proof.Machine

-- One proof at a time: elaborated in parallel, they need more memory than the check allows.
set_option Elab.async false

/-! ### What an effect depends on -/

/-- Two states with the same registers, free values, DRN and enables: all that an effect is made of. -/
structure SameInputs (s' s : State) : Prop where
  fpr : s'.fpr = s.fpr
  freeCount : s'.freeCount = s.freeCount
  drn : drnMode s'.fpscr = drnMode s.fpscr
  enabled : ∀ k, enabled s'.fpscr k = enabled s.fpscr k

namespace SameInputs

variable {s' s : State} (h : SameInputs s' s)
include h

theorem readFpr_eq (r : FReg) : readFpr s' r = readFpr s r := by
  unfold readFpr
  rw [h.fpr]

theorem sourceBits_eq (F : Format) (r : FReg) : sourceBits F s' r = sourceBits F s r := by
  unfold sourceBits readPair
  rw [h.readFpr_eq, h.readFpr_eq]

theorem sourceDfp_eq (F : Format) (r : FReg) : sourceDfp F s' r = sourceDfp F s r := by
  unfold sourceDfp
  rw [h.sourceBits_eq]

theorem readInt_eq (r : FReg) : readInt s' r = readInt s r := by
  unfold readInt
  rw [h.readFpr_eq]

theorem readSignificance_eq (r : FReg) : readSignificance s' r = readSignificance s r := by
  unfold readSignificance
  rw [h.readFpr_eq]

theorem rmcMode_eq (r : Bool) (rmc : Fin 4) : rmcMode r rmc s'.fpscr = rmcMode r rmc s.fpscr := by
  unfold rmcMode
  rw [h.drn]

theorem invalidEffect_eq (F : Format) (frt : FReg) (rc : Bool) (exc : List Exc) (q : Dfp) :
    invalidEffect F frt rc s'.fpscr exc q = invalidEffect F frt rc s.fpscr exc q := by
  unfold invalidEffect
  rw [h.enabled]

theorem deliver_eq (F : Format) (hi : Int) (sg : Bool) (v : Mag) (ideal : Int) (mode : RMode) (alpha : Int) :
    deliver F hi sg v ideal mode alpha s'.fpscr = deliver F hi sg v ideal mode alpha s.fpscr := by
  unfold deliver
  rw [h.enabled, h.enabled]

theorem arithEffect_eq (F : Format) (frt : FReg) (rc : Bool) (act : Action) :
    arithEffect F frt rc s'.fpscr act = arithEffect F frt rc s.fpscr act := by
  cases act with
  | invalid exc q => exact h.invalidEffect_eq ..
  | zeroDivide sg => simp only [arithEffect, zeroDivideEffect, h.enabled]
  | exact d => rfl
  | rounded sg v ideal => simp only [arithEffect, h.drn, h.deliver_eq]

theorem adjustEffect_eq (F : Format) (frt : FReg) (rc : Bool) (o : Adjusted) :
    adjustEffect F frt rc s'.fpscr o = adjustEffect F frt rc s.fpscr o := by
  cases o with
  | invalid exc q => exact h.invalidEffect_eq ..
  | result d fi fr => rfl

theorem narrowFinite_eq (Fs Ft : Format) (alpha : Int) (sg : Bool) (c : Nat) (e : Int) :
    narrowFinite Fs Ft alpha sg c e s'.fpscr = narrowFinite Fs Ft alpha sg c e s.fpscr := by
  unfold narrowFinite narrowNonzero
  rw [h.drn, h.deliver_eq]

/-- The effect of an instruction is the same in two states with the same inputs. -/
theorem effectOf_eq (i : Instr) : effectOf i s' = effectOf i s := by
  cases i with
  | dadd | daddq => simp only [effectOf, addEffect, h.arithEffect_eq, h.drn, h.sourceDfp_eq]
  | dsub | dsubq => simp only [effectOf, subEffect, h.arithEffect_eq, h.drn, h.sourceDfp_eq]
  | dmul | dmulq => simp only [effectOf, mulEffect, h.arithEffect_eq, h.sourceDfp_eq]
  | ddiv | ddivq => simp only [effectOf, divEffect, h.arithEffect_eq, h.sourceDfp_eq]
  | dcmpu | dcmpuq | dcmpo | dcmpoq => simp only [effectOf, compareEffect, h.enabled, h.sourceDfp_eq]
  | dtstdc | dtstdcq => simp only [effectOf, testClassEffect, h.sourceDfp_eq]
  | dtstdg | dtstdgq => simp only [effectOf, testGroupEffect, h.sourceDfp_eq]
  | dtstex | dtstexq => simp only [effectOf, testExponentEffect, h.sourceDfp_eq]
  | dtstsf | dtstsfq => simp only [effectOf, testSignificanceEffect, h.sourceDfp_eq, h.readSignificance_eq]
  | dquai | dquaiq => simp only [effectOf, quantizeImmediateEffect, h.adjustEffect_eq, h.sourceDfp_eq, h.rmcMode_eq]
  | dqua | dquaq => simp only [effectOf, quantizeEffect, h.adjustEffect_eq, h.sourceDfp_eq, h.rmcMode_eq]
  | drrnd | drrndq =>
    simp only [effectOf, reroundEffect, h.adjustEffect_eq, h.sourceDfp_eq, h.rmcMode_eq, h.readSignificance_eq]
  | drintx | drintxq | drintn | drintnq =>
    simp only [effectOf, roundToIntEffect, h.adjustEffect_eq, h.sourceDfp_eq, h.rmcMode_eq]
  | dctdp => simp only [effectOf, toDfp64Effect, h.sourceDfp_eq]
  | dctqpq => simp only [effectOf, toDfp128Effect, h.sourceDfp_eq, h.invalidEffect_eq]
  | drsp => simp only [effectOf, roundToDfp32Effect, h.sourceDfp_eq, h.freeCount, h.narrowFinite_eq]
  | drdpq => simp only [effectOf, roundToDfp64Effect, h.sourceDfp_eq, h.freeCount, h.narrowFinite_eq, h.enabled]
  | dcffixq => simp only [effectOf, fromFixedEffect, h.readInt_eq]
  | dctfix | dctfixq => simp only [effectOf, toFixedEffect, h.sourceDfp_eq, h.drn, h.enabled]
  | ddedpd | ddedpdq => simp only [effectOf, decodeDpdEffect, h.sourceDfp_eq]
  | denbcd | denbcdq => simp only [effectOf, encodeBcdEffect, h.sourceBits_eq, h.invalidEffect_eq]
  | dxex | dxexq => simp only [effectOf, extractExponentEffect, h.sourceDfp_eq]
  | diex | diexq => simp only [effectOf, insertExponentEffect, h.sourceDfp_eq, h.readInt_eq]
  | dscli | dscliq | dscri | dscriq => simp only [effectOf, shiftEffect, h.sourceDfp_eq]

end SameInputs

/-- Settles O15: the effect does not depend on FE0 and FE1, nor does what retiring it stores. -/
theorem resultsIgnoreFeMode : Obligations.ResultsIgnoreFeMode := by
  intro i s t m h
  obtain ⟨hwf, rfl⟩ := exec_next h
  have heff : effectOf i { s with feMode := m } = effectOf i s :=
    SameInputs.effectOf_eq ⟨rfl, rfl, rfl, fun _ => rfl⟩ i
  refine ⟨_, exec_wellFormed hwf _, ?_, ?_, ?_⟩
  · rw [heff, finish_fpr, finish_fpr]
    generalize (effectOf i s).fprs = ws
    have key : ∀ (ws : List (FReg × Doubleword)) (u u' : State), u'.fpr = u.fpr →
        (u'.writeFprs ws).fpr = (u.writeFprs ws).fpr := by
      intro ws
      induction ws with
      | nil => exact fun _ _ he => he
      | cons w ws ih => exact fun u u' he => ih _ _ (by rw [setFpr_fpr, setFpr_fpr, he])
    exact key ws s _ rfl
  · rw [heff, finish_fpscr, finish_fpscr]
  · rw [heff, finish_cr, finish_cr, applyEffect_cr, applyEffect_cr]
    generalize effectOf i s = e
    cases e.crBF <;> cases e.rc <;> rfl

/-! ### What an instruction causes -/

/-- The state in which `causes` runs the instruction: every status bit 0, in Ignore Exceptions Mode. -/
def quietState (s : State) : State := { s with fpscr := s.fpscr &&& ~~~maskOf statusBits, feMode := 0b00#2 }

theorem bitAt_quietState (s : State) {j : Nat} (hj : j < 64) :
    bitAt (quietState s).fpscr j = (bitAt s.fpscr j && !decide (j ∈ statusBits)) := by
  show bitAt (s.fpscr &&& ~~~maskOf statusBits) j = _
  rw [bitAt_and, bitAt_not _ hj, bitAt_maskOf (by decide) hj]

theorem quietState_sameInputs (s : State) : SameInputs (quietState s) s := by
  refine ⟨rfl, rfl, ?_, fun k => ?_⟩
  · unfold drnMode
    simp only [bitAt_quietState s (by omega : 29 < 64), bitAt_quietState s (by omega : 30 < 64),
      bitAt_quietState s (by omega : 31 < 64), show decide (29 ∈ statusBits) = false from rfl,
      show decide (30 ∈ statusBits) = false from rfl, show decide (31 ∈ statusBits) = false from rfl, Bool.not_false,
      Bool.and_true]
  · have hk : k.enableBit < 64 ∧ k.enableBit ∉ statusBits := by cases k <;> decide
    unfold enabled
    rw [bitAt_quietState s hk.1, decide_eq_false hk.2, Bool.not_false, Bool.and_true]

/-- An instruction causes the exceptions its effect reports (41_dfp_execution_model.md R205). -/
theorem causes_iff {i : Instr} (hwf : i.wellFormed = true) (s : State) {b : Nat} (hb : b ∈ statusBits) :
    causes i s b = true ↔ ∃ x ∈ (effectOf i s).exceptions, x.bit = b := by
  have hb64 : b < 64 := by
    revert hb b
    decide
  have hrun : causes i s b = bitAt ((effectOf i s).fpscrAfter (quietState s).fpscr) b := by
    unfold causes
    rw [← quietState, exec_wellFormed hwf, (quietState_sameInputs s).effectOf_eq]
    exact congrArg (bitAt · b) (finish_fpscr _ _)
  rw [hrun, bitAt_fpscrAfter_status _ _ _ hb, bitAt_quietState s hb64, decide_eq_true hb]
  simp only [Bool.not_true, Bool.and_false, Bool.false_or, Bool.or_eq_true, List.any_eq_true, Bool.and_eq_true,
    beq_iff_eq]
  refine ⟨?_, .inl⟩
  rintro (hx | ⟨rfl, hfi⟩)
  · exact hx
  · exact ⟨.xx, xx_mem_of_newFi hfi, rfl⟩

/-- Each exception is paired with its enable (10_state.md R43). -/
theorem mem_statusEnables (x : Exc) : (x.bit, x.kind.enableBit) ∈ statusEnables := by cases x <;> decide

/-- Every pair is that of an exception. -/
theorem exists_exc_of_mem_statusEnables {p : Nat × Nat} (h : p ∈ statusEnables) :
    ∃ x : Exc, p = (x.bit, x.kind.enableBit) := by
  simp only [statusEnables, List.mem_cons, List.not_mem_nil, or_false] at h
  rcases h with rfl | rfl | rfl | rfl | rfl | rfl | rfl | rfl | rfl | rfl | rfl
  exacts [⟨.ox, rfl⟩, ⟨.ux, rfl⟩, ⟨.zx, rfl⟩, ⟨.xx, rfl⟩, ⟨.vxsnan, rfl⟩, ⟨.vxisi, rfl⟩, ⟨.vxidi, rfl⟩,
    ⟨.vxzdz, rfl⟩, ⟨.vximz, rfl⟩, ⟨.vxvc, rfl⟩, ⟨.vxcvi, rfl⟩]

/-- Different exceptions have different status bits (10_state.md R31). -/
theorem exc_bit_injective {x y : Exc} (h : x.bit = y.bit) : x = y := by
  have hfind : ∀ z : Exc, [Exc.ox, .ux, .zx, .xx, .vxsnan, .vxisi, .vxidi, .vxzdz, .vximz, .vxvc, .vxcvi].find?
      (fun u => u.bit == z.bit) = some z := fun z => by cases z <;> rfl
  have hx := hfind x
  rw [h, hfind y] at hx
  exact (Option.some.inj hx).symm

/-- An instruction causes an enabled exception exactly when its effect raises (60_exceptions.md R376). -/
theorem raisesEnabled_iff {i : Instr} (hwf : i.wellFormed = true) (s : State) :
    raisesEnabled i s = true ↔ (effectOf i s).raised s.fpscr ≠ [] := by
  unfold raisesEnabled
  rw [ne_eq, raised_eq_nil_iff, List.any_eq_true]
  push Not
  constructor
  · rintro ⟨p, hp, hc⟩
    obtain ⟨x, rfl⟩ := exists_exc_of_mem_statusEnables hp
    obtain ⟨hcause, hen⟩ := Bool.and_eq_true_iff.mp hc
    obtain ⟨y, hy, hbit⟩ := (causes_iff hwf s x.bit_mem_statusBits).mp hcause
    exact ⟨y, hy, by rw [exc_bit_injective hbit]; simpa [enabled] using hen⟩
  · rintro ⟨x, hx, hen⟩
    exact ⟨_, mem_statusEnables x, Bool.and_eq_true_iff.mpr
      ⟨(causes_iff hwf s x.bit_mem_statusBits).mpr ⟨x, hx, rfl⟩, by simpa [enabled] using hen⟩⟩

/-! ### What retiring does by exception mode (60_exceptions.md R375 to R378) -/

theorem finish_completed_of_not_raised {e : Effect} {s : State} (h : e.raised s.fpscr = []) :
    Completed s (finish e s) :=
  finish_completed e s (.inl h)

/-- In Precise Mode an effect that raises takes the Trap at the instruction. -/
theorem finish_precise {e : Effect} {s : State} (hmode : s.feMode = 0b11#2) (h : e.raised s.fpscr ≠ []) :
    finish e s = takeTrap s.pc (applyEffect e s) := by
  rcases finish_cases e s with ⟨h1, -⟩ | ⟨-, -, he⟩ | ⟨-, h2, -⟩
  · rw [hmode, excModeOf_11] at h1
    exact absurd h1 (by simp [h])
  · exact he
  · rw [hmode, excModeOf_11] at h2
    exact absurd h2 (by simp)

/-- In an imprecise mode an effect that raises takes the Trap at the instruction or leaves the exception pending. -/
theorem finish_imprecise {e : Effect} {s : State} (hmode : s.feMode = 0b01#2 ∨ s.feMode = 0b10#2)
    (h : e.raised s.fpscr ≠ []) :
    finish e s = takeTrap s.pc (applyEffect e s) ∨
      finish e s = (makePending (e.fprs.map Prod.fst) e.mask (applyEffect e s)).setPc (s.pc + 4) := by
  rcases finish_cases e s with ⟨h1, -⟩ | ⟨-, -, he⟩ | ⟨-, -, he⟩
  · rcases hmode with hm | hm <;> simp [h, hm] at h1
  · exact .inl he
  · exact .inr he

/-- Settles O13: in Precise Mode an effect traps exactly when it raises. -/
theorem preciseModeOutcome : Obligations.PreciseModeOutcome := by
  intro i s t hmode h
  obtain ⟨hwf, rfl⟩ := exec_next h
  refine ⟨fun hr => ?_, fun hr => finish_completed_of_not_raised ?_⟩
  · have hraised := (raisesEnabled_iff hwf s).mp hr
    have hfex := bitAt_fpscrAfter_fex hraised
    rw [← finish_fpscr _ s] at hfex
    refine ⟨?_, ?_, ?_, ?_, hfex⟩ <;> rw [finish_precise hmode hraised]
    · rfl
    · exact applyEffect_pc _ s
    · rfl
    · exact applyEffect_mem _ s
  · by_contra hne
    exact absurd ((raisesEnabled_iff hwf s).mpr hne) (by simp [hr])

/-- The mask of a `Commit` has every bit that it changes (41_dfp_execution_model.md R205). -/
theorem bitAt_commitMask_of_changed {c : Commit} {v : BitVec 64} {b : Nat} (hb : b < 64)
    (h : bitAt (commitFpscr c v) b ≠ bitAt v b) : bitAt (commitMask c) b = true := by
  have hbits : ∀ j ∈ [32, 33, 34] ++ c.exc.map Exc.bit ++ (if c.fi.isSome then [38, 46] else [])
      ++ (if c.fr.isSome then [45] else []) ++ (if c.fprf.isSome then [47, 48, 49, 50, 51] else [])
      ++ (if c.fpcc.isSome then [48, 49, 50, 51] else []), j < 64 := by
    intro j hj
    simp only [List.mem_append, List.mem_map] at hj
    obtain ((((hj | ⟨x, -, rfl⟩) | hj) | hj) | hj) | hj := hj
    · revert hj j
      decide
    · exact x.bit_lt
    all_goals
      split at hj
      · revert hj j
        decide
      · cases hj
  rw [commitMask, bitAt_maskOf hbits hb, decide_eq_true_eq]
  by_contra hout
  simp only [List.mem_append, not_or] at hout
  obtain ⟨⟨⟨⟨⟨hsum, hexc⟩, hfi⟩, hfr⟩, hfprf⟩, hfpcc⟩ := hout
  simp only [List.mem_cons, List.not_mem_nil, or_false, not_or] at hsum
  refine h (bitAt_commitFpscr_kept c v b hb hsum (List.any_eq_false.mpr fun x hx hxb => hexc ?_) ?_ ?_ ?_ ?_)
  · exact List.mem_map.mpr ⟨x, hx, beq_iff_eq.mp hxb⟩
  · cases hc : c.fi with
    | none => exact .inl rfl
    | some _ => exact .inr (by simpa [hc] using hfi)
  · cases hc : c.fr with
    | none => exact .inl rfl
    | some _ => exact .inr (by simpa [hc] using hfr)
  · cases hc : c.fprf with
    | none => exact .inl rfl
    | some _ =>
      simp only [hc, Option.isSome_some, if_true, List.mem_cons, List.not_mem_nil, or_false, not_or] at hfprf
      exact .inr (by omega)
  · cases hc : c.fpcc with
    | none => exact .inl rfl
    | some _ =>
      simp only [hc, Option.isSome_some, if_true, List.mem_cons, List.not_mem_nil, or_false, not_or] at hfpcc
      exact .inr (by omega)

/-- What an effect writes is in its record (60_exceptions.md R378). -/
theorem bitAt_mask_of_changed {e : Effect} {v : BitVec 64} {b : Nat} (hb : b < 64)
    (h : bitAt (e.fpscrAfter v) b ≠ bitAt v b) : bitAt e.mask b = true := by
  unfold Effect.fpscrAfter at h
  unfold Effect.mask
  cases hc : e.commit with
  | none =>
    rw [hc] at h
    exact absurd rfl h
  | some c =>
    rw [hc] at h
    exact bitAt_commitMask_of_changed hb h

/-- Settles O14: an effect that raises traps, or is pending with the registers and FPSCR bits it wrote recorded. -/
theorem impreciseModeOutcome : Obligations.ImpreciseModeOutcome := by
  intro i s t hmode h
  obtain ⟨hwf, rfl⟩ := exec_next h
  refine ⟨fun hr => finish_completed_of_not_raised ?_, fun hr => ?_⟩
  · by_contra hne
    exact absurd ((raisesEnabled_iff hwf s).mpr hne) (by simp [hr])
  · have hraised := (raisesEnabled_iff hwf s).mp hr
    have hfex := bitAt_fpscrAfter_fex hraised
    rw [← finish_fpscr _ s] at hfex
    rcases finish_imprecise hmode hraised with he | he
    · refine .inl ⟨?_, ?_, ?_, hfex⟩ <;> rw [he]
      · rfl
      · exact applyEffect_pc _ s
      · rfl
    · refine .inr ⟨?_, ?_, ?_, hfex, fun r hr => ?_, fun b hb hne => ?_⟩
      · rw [he]
        exact applyEffect_trapAt _ s
      · rw [he]
        rfl
      · rw [he]
        rfl
      · have hmem : r ∈ (effectOf i s).fprs.map Prod.fst := by
          by_contra hout
          exact hr (readFpr_finish_kept _ s r hout)
        rw [he]
        exact List.mem_append_left _ hmem
      · rw [finish_fpscr] at hne
        rw [he]
        exact (bitAt_or _ _ b).trans (by rw [bitAt_mask_of_changed hb hne, Bool.true_or])

/-! ### The instructions that cause nothing (60_exceptions.md R371) -/

/-- These report no exception and do not affect FI. -/
theorem effectOf_causesNone {i : Instr} (h : causesNone i = true) (s : State) :
    (effectOf i s).exceptions = [] ∧ (effectOf i s).newFi = none := by
  cases i with
  | dtstdc | dtstdcq | dtstdg | dtstdgq | dtstex | dtstexq | dtstsf | dtstsfq | dctdp | dcffixq | ddedpd | ddedpdq
  | dxex | dxexq | diex | diexq | dscli | dscliq | dscri | dscriq => exact ⟨rfl, rfl⟩
  | _ => cases h

/-- An effect without exceptions that keeps FI leaves every status bit. -/
theorem statusKept_of_silent {e : Effect} (hexc : e.exceptions = []) (hfi : e.newFi = none) (s : State) :
    StatusKept s (finish e s) := by
  intro b hb
  rw [finish_fpscr, bitAt_fpscrAfter_status _ _ _ hb, hexc, hfi]
  simp

theorem raised_of_no_exceptions {e : Effect} (h : e.exceptions = []) (v : BitVec 64) : e.raised v = [] :=
  (raised_eq_nil_iff e v).mpr fun x hx => by rw [h] at hx; cases hx

/-- FX stays when every status bit does (10_state.md R33). -/
theorem fx_kept_of_statusKept {e : Effect} {s : State} (h : StatusKept s (finish e s)) :
    bitAt (finish e s).fpscr 32 = bitAt s.fpscr 32 := by
  have hany : statusBits.any (fun j => !bitAt s.fpscr j && bitAt (e.fpscrAfter s.fpscr) j) = false :=
    List.any_eq_false.mpr fun j hj => by
      have := h j hj
      rw [finish_fpscr] at this
      simp [this]
  rw [finish_fpscr, bitAt_fpscrAfter_fx, hany, Bool.or_false]

/-- Settles O16: these instructions report nothing, so nothing is raised and no status bit changes. -/
theorem silentInstructionsComplete : Obligations.SilentInstructionsComplete := by
  intro i s hwf hnone
  obtain ⟨hexc, hfi⟩ := effectOf_causesNone hnone s
  have hkept := statusKept_of_silent hexc hfi s
  exact ⟨_, exec_wellFormed hwf s, finish_completed_of_not_raised (raised_of_no_exceptions hexc _), hkept,
    fx_kept_of_statusKept hkept⟩

/-! ### Enabled invalid operations (41_dfp_execution_model.md R192, R193) -/

/-- The effect reports exc, writes no register and no FPRF, and sets FI and FR to 0. -/
def Effect.Suppressed (e : Effect) : Prop :=
  e.fprs = [] ∧ ∃ exc, e.commit = some { exc := exc, fi := some false, fr := some false }

/-- An effect that reports an enabled invalid operation suppresses its result. -/
def Effect.SuppressesInvalid (fpscr : BitVec 64) (e : Effect) : Prop :=
  enabled fpscr .invalid = true → (∃ x ∈ e.exceptions, x.kind = .invalid) → e.Suppressed

section
variable {F : Format} {frt : FReg} {rc : Bool} {fpscr : BitVec 64}

theorem invalidEffect_enabled {exc : List Exc} {q : Dfp} (h : enabled fpscr .invalid = true) :
    invalidEffect F frt rc fpscr exc q = suppressedEffect exc rc := by
  unfold invalidEffect
  rw [if_pos h]

theorem invalidEffect_suppresses (exc : List Exc) (q : Dfp) :
    (invalidEffect F frt rc fpscr exc q).SuppressesInvalid fpscr := fun hve _ => by
  rw [invalidEffect_enabled hve]
  exact ⟨rfl, exc, rfl⟩

/-- An effect whose exceptions are of rounding alone reports no invalid operation. -/
theorem suppressesInvalid_of_not_invalid {e : Effect} (h : ∀ x ∈ e.exceptions, x.kind ≠ .invalid) :
    e.SuppressesInvalid fpscr := fun _ ⟨x, hx, hk⟩ => absurd hk (h x hx)

theorem not_invalid_of_subset {exc : List Exc} (h : exc ⊆ [.ox, .ux, .xx]) : ∀ x ∈ exc, x.kind ≠ .invalid := by
  intro x hx
  have := h hx
  simp only [List.mem_cons, List.not_mem_nil, or_false] at this
  rcases this with rfl | rfl | rfl <;> decide

theorem arithEffect_suppresses (act : Action) : (arithEffect F frt rc fpscr act).SuppressesInvalid fpscr := by
  cases act with
  | invalid exc q => exact invalidEffect_suppresses exc q
  | zeroDivide s =>
    simp only [arithEffect, zeroDivideEffect]
    split <;> exact suppressesInvalid_of_not_invalid fun x hx => by
      rw [List.mem_singleton.mp hx]
      decide
  | exact d => exact suppressesInvalid_of_not_invalid (by simp [arithEffect, exactEffect, Effect.exceptions])
  | rounded s v ideal =>
    exact suppressesInvalid_of_not_invalid (not_invalid_of_subset (deliver_exc_subset (F := F) ..))

theorem adjustEffect_suppresses (o : Adjusted) : (adjustEffect F frt rc fpscr o).SuppressesInvalid fpscr := by
  cases o with
  | invalid exc q => exact invalidEffect_suppresses exc q
  | result d fi fr =>
    refine suppressesInvalid_of_not_invalid fun x hx => ?_
    rw [((mem_xxIf x fi).mp hx).2]
    decide

theorem toDfp128Effect_suppresses (frb : FReg) (s : State) :
    (toDfp128Effect frt frb rc s).SuppressesInvalid s.fpscr := by
  unfold toDfp128Effect
  split
  · exact invalidEffect_suppresses _ _
  all_goals exact suppressesInvalid_of_not_invalid (by simp [exactEffect, Effect.exceptions])

theorem roundToDfp32Effect_suppresses (frb : FReg) (s : State) :
    (roundToDfp32Effect frt frb rc s).SuppressesInvalid s.fpscr := by
  simp only [roundToDfp32Effect]
  split
  iterate 3 exact suppressesInvalid_of_not_invalid (by simp [specialNarrowEffect, Effect.exceptions])
  exact suppressesInvalid_of_not_invalid (not_invalid_of_subset (narrowFinite_exc_subset ..))

theorem roundToDfp64Effect_suppresses (frb : FReg) (s : State) :
    (roundToDfp64Effect frt frb rc s).SuppressesInvalid s.fpscr := by
  simp only [roundToDfp64Effect]
  split
  · split
    · exact fun _ _ => ⟨rfl, _, rfl⟩
    · next hve => exact fun hve' => absurd hve' hve
  · exact suppressesInvalid_of_not_invalid (by simp [specialNarrowEffect, Effect.exceptions])
  · exact suppressesInvalid_of_not_invalid (by simp [specialNarrowEffect, Effect.exceptions])
  · exact suppressesInvalid_of_not_invalid (not_invalid_of_subset (narrowFinite_exc_subset ..))

theorem toFixedEffect_suppresses (frb : FReg) (s : State) :
    (toFixedEffect F frt frb rc s).SuppressesInvalid s.fpscr := by
  unfold toFixedEffect
  split
  · exact fun hve _ => ⟨if_pos hve, _, rfl⟩
  · next v fi fr h =>
    refine suppressesInvalid_of_not_invalid fun x hx => ?_
    rw [((mem_xxIf x fi).mp hx).2]
    decide

theorem encodeBcdEffect_suppresses (sgn : Bool) (frb : FReg) (s : State) :
    (encodeBcdEffect F frt sgn frb rc s).SuppressesInvalid s.fpscr := by
  unfold encodeBcdEffect
  split
  · exact invalidEffect_suppresses _ _
  · exact suppressesInvalid_of_not_invalid (by simp [exactEffect, Effect.exceptions])
end

/-- Every instruction with a target suppresses the result of an enabled invalid operation. -/
theorem effectOf_suppressesInvalid {i : Instr} (h : isCompareOrTest i = false) (s : State) :
    (effectOf i s).SuppressesInvalid s.fpscr := by
  cases i with
  | dadd | daddq | dsub | dsubq | dmul | dmulq | ddiv | ddivq => exact arithEffect_suppresses _
  | dquai | dquaiq | dqua | dquaq | drrnd | drrndq | drintx | drintxq | drintn | drintnq =>
    exact adjustEffect_suppresses _
  | dctqpq => exact toDfp128Effect_suppresses _ s
  | drsp => exact roundToDfp32Effect_suppresses _ s
  | drdpq => exact roundToDfp64Effect_suppresses _ s
  | dctfix | dctfixq => exact toFixedEffect_suppresses _ s
  | denbcd | denbcdq => exact encodeBcdEffect_suppresses _ _ s
  | dctdp | dcffixq | ddedpd | ddedpdq | dxex | dxexq | diex | diexq | dscli | dscliq | dscri | dscriq =>
    exact suppressesInvalid_of_not_invalid fun x hx => by cases hx
  | _ => cases h

/-- Two FPSCRs with the same bits 47:51 have the same FPRF. -/
theorem fprfField_congr {u v : BitVec 64} (h : ∀ j, 47 ≤ j → j < 52 → bitAt u j = bitAt v j) :
    fprfField u = fprfField v := by
  refine BitVec.eq_of_getLsbD_eq fun k hk => ?_
  have hbit : ∀ w : BitVec 64, (fprfField w).getLsbD k = bitAt w (51 - k) := by
    intro w
    simp only [fprfField, slice, BitVec.getLsbD_extractLsb', hk, decide_true, Bool.true_and, bitAt, BitVec.getMsbD]
    rw [decide_eq_true (by omega), Bool.true_and]
    congr 1
    omega
  rw [hbit, hbit]
  exact h _ (by omega) (by omega)

/-- A suppressed result: no register, FR = FI = 0 and FPRF as before. -/
theorem finish_suppressed {e : Effect} (h : e.Suppressed) (s : State) :
    (finish e s).fpr = s.fpr ∧ roundingFlagsClear (finish e s).fpscr = true ∧
      fprfField (finish e s).fpscr = fprfField s.fpscr := by
  obtain ⟨hfprs, exc, hc⟩ := h
  rw [finish_fpr, finish_fpscr, hfprs]
  unfold Effect.fpscrAfter
  rw [hc]
  refine ⟨rfl, ?_, fprfField_congr fun j h1 h2 => ?_⟩
  · simp [roundingFlagsClear, bitAt_commitFpscr_fr, bitAt_commitFpscr_fi]
  · exact bitAt_commitFpscr_kept _ _ j (by omega) (by omega)
      (List.any_eq_false.mpr fun x _ hx => by
        have hx' := beq_iff_eq.mp hx
        cases x <;> simp only [Exc.bit] at hx' <;> omega)
      (.inr (by omega)) (.inr (by omega)) (.inl rfl) (.inl rfl)

/-- Settles O22: an instruction that causes an enabled invalid operation reports it, so its effect is a suppressed one. -/
theorem enabledInvalidSuppresses : Obligations.EnabledInvalidSuppresses := by
  intro i s t h hnc hve hany
  obtain ⟨hwf, rfl⟩ := exec_next h
  obtain ⟨b, hb, hcause⟩ := List.any_eq_true.mp hany
  obtain ⟨x, hx, rfl⟩ := (causes_iff hwf s (List.mem_append_right _ hb)).mp hcause
  have hk : x.kind = .invalid := (kind_eq_invalid_iff x).mpr hb
  obtain ⟨hfpr, hflags, hfprf⟩ := finish_suppressed (effectOf_suppressesInvalid hnc s hve ⟨x, hx, hk⟩) s
  refine ⟨hfpr, hflags, hfprf, ?_⟩
  rw [finish_fpscr]
  refine bitAt_fpscrAfter_fex fun hnil => ?_
  have := (raised_eq_nil_iff _ _).mp hnil x hx
  rw [hk] at this
  exact absurd (this.symm.trans hve) Bool.false_ne_true

end Sys2Proof.Machine
end

section
/-! The DFP formats (40_dfp_formats.md R125 to R141): DPD blocks, encoding and decoding of values, and the tables of the
status register. -/

namespace Sys2Proof.Machine

-- One proof at a time: elaborated in parallel, they need more memory than the check allows.
set_option Elab.async false

/-! ### DPD blocks (R132 to R134) -/

theorem dpdDecode_dpdEncode : ∀ n, n < 1000 → dpdEncode n < 1024 ∧ dpdDecode (dpdEncode n) = n := by decide +kernel

theorem dpdDecode_lt : ∀ c, c < 1024 → dpdDecode c < 1000 := by decide +kernel

/-- Settles O24: the tables are evaluated at every block and every three digits. -/
theorem dpdBlocks : Obligations.DpdBlocks := by
  refine ⟨dpdDecode_dpdEncode, fun c hc => ⟨dpdDecode_lt c hc, ?_⟩⟩
  revert c
  decide +kernel

/-- The blocks of a coefficient continuation field hold three digits each (R135). -/
theorem decodeCC_lt (k : Nat) : ∀ w, decodeCC k w < 1000 ^ k := by
  induction k with
  | zero => intro w; simp [decodeCC]
  | succ k ih =>
    intro w
    have h1 := ih (w / 1024)
    have h2 := dpdDecode_lt (w % 1024) (Nat.mod_lt _ (by norm_num))
    rw [decodeCC, pow_succ]
    omega

/-- The blocks of a coefficient continuation field take ten bits each (R137). -/
theorem encodeCC_lt (k : Nat) : ∀ cc, encodeCC k cc < 1024 ^ k := by
  induction k with
  | zero => intro cc; simp [encodeCC]
  | succ k ih =>
    intro cc
    have h1 := ih (cc / 1000)
    have h2 := (dpdDecode_dpdEncode (cc % 1000) (Nat.mod_lt _ (by norm_num))).1
    rw [encodeCC, pow_succ]
    omega

/-- Decoding inverts encoding on a coefficient continuation field (R135, R137). -/
theorem decodeCC_encodeCC (k : Nat) : ∀ cc, cc < 1000 ^ k → decodeCC k (encodeCC k cc) = cc := by
  induction k with
  | zero => intro cc h; simp at h; simp [decodeCC, h]
  | succ k ih =>
    intro cc h
    rw [pow_succ] at h
    obtain ⟨hlt, hdec⟩ := dpdDecode_dpdEncode (cc % 1000) (Nat.mod_lt _ (by norm_num))
    have hdiv : encodeCC (k + 1) cc / 1024 = encodeCC k (cc / 1000) := by rw [encodeCC]; omega
    have hmod : encodeCC (k + 1) cc % 1024 = dpdEncode (cc % 1000) := by rw [encodeCC]; omega
    rw [decodeCC, hdiv, hmod, hdec, ih _ (by omega)]
    omega

/-! ### The combination field (R129) -/

theorem combOf_spec {top2 lmd : Nat} (ht : top2 < 3) (hl : lmd < 10) :
    combOf top2 lmd < 30 ∧ combTop2 (combOf top2 lmd) = top2 ∧ combLmd (combOf top2 lmd) = lmd := by
  unfold combOf combTop2 combLmd
  split <;> refine ⟨by omega, ?_, ?_⟩ <;> split <;> omega

theorem combTop2_lt {C : Nat} (h : C < 30) : combTop2 C < 3 := by
  unfold combTop2
  split <;> omega

theorem combLmd_lt (C : Nat) : combLmd C < 10 := by
  unfold combLmd
  split <;> omega

/-! ### Encoding and decoding -/

theorem Format.prec_eq (F : Format) : F.prec = 3 * F.ndec + 1 := by cases F <;> rfl

theorem Format.maxBiased_eq (F : Format) : F.maxBiased = ((3 * 2 ^ F.becw - 1 : Nat) : Int) := by cases F <;> rfl

theorem thousand_pow (k : Nat) : 1000 ^ k = 10 ^ (3 * k) := by
  rw [pow_mul]
  norm_num

theorem ten_pow_prec_sub_one (F : Format) : 10 ^ (F.prec - 1) = 1000 ^ F.ndec := by
  rw [thousand_pow, F.prec_eq, Nat.add_sub_cancel]

theorem ten_pow_prec (F : Format) : 10 ^ F.prec = 10 * 1000 ^ F.ndec := by
  rw [thousand_pow, F.prec_eq, pow_succ, mul_comm]

theorem fits_fin_iff {F : Format} {s : Bool} {c : Nat} {e : Int} :
    (Dfp.fin s c e).fits F = true ↔ c < 10 ^ F.prec ∧ F.xmin ≤ e ∧ e ≤ F.xmax := by
  simp [Dfp.fits, and_assoc]

theorem fits_inf_iff {F : Format} {s : Bool} {cc : Nat} : (Dfp.inf s cc).fits F = true ↔ cc < 10 ^ (F.prec - 1) := by
  simp [Dfp.fits]

theorem fits_qnan_iff {F : Format} {s : Bool} {cc : Nat} : (Dfp.qnan s cc).fits F = true ↔ cc < 10 ^ (F.prec - 1) := by
  simp [Dfp.fits]

theorem fits_snan_iff {F : Format} {s : Bool} {cc : Nat} : (Dfp.snan s cc).fits F = true ↔ cc < 10 ^ (F.prec - 1) := by
  simp [Dfp.fits]

/-- Every bit pattern decodes to a value of its format (R135). -/
theorem decodeDfp_fits (F : Format) (w : Nat) : (decodeDfp F w).fits F = true := by
  have hcc := decodeCC_lt F.ndec (w % 2 ^ (10 * F.ndec))
  have hcomb : w / 2 ^ (10 * F.ndec + F.becw) % 32 < 32 := Nat.mod_lt _ (by norm_num)
  have hbec : w / 2 ^ (10 * F.ndec) % 2 ^ F.becw < 2 ^ F.becw := Nat.mod_lt _ (by positivity)
  simp only [decodeDfp]
  split
  · split <;> simpa [Dfp.fits, ten_pow_prec_sub_one] using hcc
  · split
    · simpa [Dfp.fits, ten_pow_prec_sub_one] using hcc
    · next h31 h30 =>
      have htop := combTop2_lt (C := w / 2 ^ (10 * F.ndec + F.becw) % 32) (by omega)
      have hlmd := combLmd_lt (w / 2 ^ (10 * F.ndec + F.becw) % 32)
      have hbe : combTop2 (w / 2 ^ (10 * F.ndec + F.becw) % 32) * 2 ^ F.becw + w / 2 ^ (10 * F.ndec) % 2 ^ F.becw ≤
          3 * 2 ^ F.becw - 1 := by
        have : combTop2 (w / 2 ^ (10 * F.ndec + F.becw) % 32) * 2 ^ F.becw ≤ 2 * 2 ^ F.becw :=
          Nat.mul_le_mul_right _ (by omega)
        omega
      have hmul : combLmd (w / 2 ^ (10 * F.ndec + F.becw) % 32) * 1000 ^ F.ndec ≤ 9 * 1000 ^ F.ndec :=
        Nat.mul_le_mul_right _ (by omega)
      simp only [fits_fin_iff, Format.xmin, Format.xmax, F.maxBiased_eq, ten_pow_prec_sub_one, ten_pow_prec]
      exact ⟨by omega, by omega, by have := Int.ofNat_le.mpr hbe; omega⟩

/-- Each field of a packed value is read back (R127, R137). -/
theorem packDfp_fields {F : Format} (s : Bool) {C bec cc : Nat} (hC : C < 32) (hbec : bec < 2 ^ F.becw)
    (hcc : cc < 1000 ^ F.ndec) :
    packDfp F s C bec cc / 2 ^ (F.width - 1) % 2 = s.toNat ∧
      packDfp F s C bec cc / 2 ^ (10 * F.ndec + F.becw) % 32 = C ∧
      packDfp F s C bec cc / 2 ^ (10 * F.ndec) % 2 ^ F.becw = bec ∧
      decodeCC F.ndec (packDfp F s C bec cc % 2 ^ (10 * F.ndec)) = cc ∧ packDfp F s C bec cc < 2 ^ F.width := by
  have hs := Bool.toNat_lt s
  have henc := encodeCC_lt F.ndec cc
  have hdec := decodeCC_encodeCC F.ndec cc hcc
  have hmod : packDfp F s C bec cc % 2 ^ (10 * F.ndec) = encodeCC F.ndec cc := by
    unfold packDfp
    generalize encodeCC F.ndec cc = x at henc ⊢
    cases F <;> simp only [Format.width, Format.becw, Format.ndec] at * <;> omega
  refine ⟨?_, ?_, ?_, by rw [hmod, hdec], ?_⟩ <;> clear hmod hdec <;> unfold packDfp <;>
    generalize encodeCC F.ndec cc = x at henc ⊢ <;>
    cases F <;> simp only [Format.width, Format.becw, Format.ndec] at * <;> omega

theorem toNat_beq_one (s : Bool) : (s.toNat == 1) = s := by cases s <;> rfl

/-- Decoding inverts encoding (R135, R137). -/
theorem decodeDfp_encodeDfp {F : Format} {d : Dfp} (h : d.fits F = true) : decodeDfp F (encodeDfp F d) = d := by
  have hb : (2 : Nat) ^ F.becw = 2 * 2 ^ (F.becw - 1) := by cases F <;> rfl
  have hb0 : 0 < 2 ^ (F.becw - 1) := by positivity
  have hquiet : 0 / 2 ^ (F.becw - 1) ≠ 1 := by simp
  cases d with
  | inf s cc =>
    rw [fits_inf_iff, ten_pow_prec_sub_one] at h
    obtain ⟨hs, hC, hbec, hcc, -⟩ := packDfp_fields s (by norm_num : 30 < 32) (by positivity : 0 < 2 ^ F.becw) h
    simp [encodeDfp, decodeDfp, hs, hC, hcc]
  | qnan s cc =>
    rw [fits_qnan_iff, ten_pow_prec_sub_one] at h
    obtain ⟨hs, hC, hbec, hcc, -⟩ := packDfp_fields s (by norm_num : 31 < 32) (by positivity : 0 < 2 ^ F.becw) h
    simp [encodeDfp, decodeDfp, hs, hC, hbec, hcc]
  | snan s cc =>
    rw [fits_snan_iff, ten_pow_prec_sub_one] at h
    obtain ⟨hs, hC, hbec, hcc, -⟩ := packDfp_fields s (by norm_num : 31 < 32) (by omega : 2 ^ (F.becw - 1) < 2 ^ F.becw) h
    simp [encodeDfp, decodeDfp, hs, hC, hbec, hcc, Nat.div_self hb0]
  | fin s c e =>
    obtain ⟨hc, hlo, hhi⟩ := fits_fin_iff.mp h
    rw [ten_pow_prec] at hc
    simp only [Format.xmin, Format.xmax, F.maxBiased_eq] at hlo hhi
    have hbe : (e + F.bias).toNat < 3 * 2 ^ F.becw := by omega
    have htop : (e + F.bias).toNat / 2 ^ F.becw < 3 := Nat.div_lt_of_lt_mul (by omega)
    have hlmd : c / 1000 ^ F.ndec < 10 := Nat.div_lt_of_lt_mul (by omega)
    obtain ⟨hC30, htop2, hlmd2⟩ := combOf_spec htop hlmd
    obtain ⟨hs, hC, hbec, hcc, -⟩ := packDfp_fields s (hC30.trans (by norm_num))
      (Nat.mod_lt (e + F.bias).toNat (by positivity : 0 < 2 ^ F.becw)) (Nat.mod_lt c (by positivity : 0 < 1000 ^ F.ndec))
    simp only [encodeDfp, decodeDfp, ten_pow_prec_sub_one, hs, hC, hbec, hcc, toNat_beq_one]
    rw [if_neg (by omega), if_neg (by omega), htop2, hlmd2, Nat.div_add_mod', Nat.div_add_mod']
    congr 1
    omega

/-- An encoded value has the width of its format (R137). -/
theorem encodeDfp_lt {F : Format} {d : Dfp} (h : d.fits F = true) : encodeDfp F d < 2 ^ F.width := by
  have hb : (2 : Nat) ^ F.becw = 2 * 2 ^ (F.becw - 1) := by cases F <;> rfl
  have hb0 : 0 < 2 ^ (F.becw - 1) := by positivity
  cases d with
  | inf s cc =>
    rw [fits_inf_iff, ten_pow_prec_sub_one] at h
    exact (packDfp_fields s (by norm_num) (by positivity) h).2.2.2.2
  | qnan s cc =>
    rw [fits_qnan_iff, ten_pow_prec_sub_one] at h
    exact (packDfp_fields s (by norm_num) (by positivity) h).2.2.2.2
  | snan s cc =>
    rw [fits_snan_iff, ten_pow_prec_sub_one] at h
    exact (packDfp_fields s (by norm_num) (by omega) h).2.2.2.2
  | fin s c e =>
    obtain ⟨hc, hlo, hhi⟩ := fits_fin_iff.mp h
    rw [ten_pow_prec] at hc
    simp only [Format.xmin, Format.xmax, F.maxBiased_eq] at hlo hhi
    have htop : (e + F.bias).toNat / 2 ^ F.becw < 3 := Nat.div_lt_of_lt_mul (by omega)
    have hlmd : c / 1000 ^ F.ndec < 10 := Nat.div_lt_of_lt_mul (by omega)
    have hC30 := (combOf_spec htop hlmd).1
    simp only [encodeDfp, ten_pow_prec_sub_one]
    exact (packDfp_fields s (hC30.trans (by norm_num)) (Nat.mod_lt _ (by positivity)) (Nat.mod_lt _ (by positivity))).2.2.2.2

/-- Settles O23: every pattern decodes to a value that fits, and decoding inverts encoding. -/
theorem formatRoundTrip : Obligations.FormatRoundTrip := fun F =>
  ⟨fun w _ => decodeDfp_fits F w, fun _ h => ⟨decodeDfp_encodeDfp h, encodeDfp_lt h⟩⟩

/-! ### Values and data classes (R123, R140, R141) -/

theorem finValue_false (c : Nat) (e : Int) : finValue false c e = (c : ℚ) * (10 : ℚ) ^ e := by
  simp [finValue]

theorem ten_zpow_pos (e : Int) : (0 : ℚ) < (10 : ℚ) ^ e := zpow_pos (by norm_num) e

theorem ten_zpow_lt_iff {a b : Int} : (10 : ℚ) ^ a < (10 : ℚ) ^ b ↔ a < b := zpow_lt_zpow_iff_right₀ (by norm_num)

theorem ten_zpow_le_iff {a b : Int} : (10 : ℚ) ^ a ≤ (10 : ℚ) ^ b ↔ a ≤ b := zpow_le_zpow_iff_right₀ (by norm_num)

theorem ten_zpow_add (a b : Int) : (10 : ℚ) ^ (a + b) = (10 : ℚ) ^ a * (10 : ℚ) ^ b := zpow_add₀ (by norm_num) a b

theorem ten_zpow_natCast (n : Nat) : (10 : ℚ) ^ (n : Int) = ((10 ^ n : Nat) : ℚ) := by
  rw [zpow_natCast]
  norm_num

/-- A number with d digits at exponent e is below ten to the k exactly when d + e is at most k. -/
theorem finValue_lt_zpow_iff {c : Nat} (hc : 0 < c) (e k : Int) :
    finValue false c e < (10 : ℚ) ^ k ↔ (digits c : Int) + e ≤ k := by
  obtain ⟨hd, hlo, hhi⟩ := digits_spec hc
  rw [finValue_false]
  constructor
  · intro h
    have hle : (10 : ℚ) ^ (((digits c - 1 : Nat) : Int) + e) ≤ c * (10 : ℚ) ^ e := by
      rw [ten_zpow_add, ten_zpow_natCast]
      exact mul_le_mul_of_nonneg_right (by exact_mod_cast hlo) (ten_zpow_pos e).le
    have := ten_zpow_lt_iff.mp (hle.trans_lt h)
    omega
  · intro h
    calc (c : ℚ) * (10 : ℚ) ^ e < (10 : ℚ) ^ ((digits c : Int) + e) := by
          rw [ten_zpow_add, ten_zpow_natCast]
          exact mul_lt_mul_of_pos_right (by exact_mod_cast hhi) (ten_zpow_pos e)
      _ ≤ (10 : ℚ) ^ k := ten_zpow_le_iff.mpr h

/-- A nonzero number is subnormal exactly when it is below Nmin (R140). -/
theorem isSubnormal_iff {F : Format} {c : Nat} (hc : c ≠ 0) (e : Int) :
    isSubnormal F c e = true ↔ finValue false c e < (10 : ℚ) ^ (F.xmin + F.prec - 1) := by
  rw [finValue_lt_zpow_iff (Nat.pos_of_ne_zero hc), isSubnormal, decide_eq_true_eq]
  omega

/-- The FPRF code of a nonzero finite number (R141). -/
theorem fprfOf_fin {F : Format} {c : Nat} (hc : c ≠ 0) (sg : Bool) (e : Int) :
    fprfOf F (.fin sg c e) =
      if isSubnormal F c e = true then (if sg = true then 0b11000#5 else 0b10100#5)
      else if sg = true then 0b01000#5 else 0b00100#5 := by
  unfold fprfOf
  simp only [Dfp.dataClass, hc, if_false, Dfp.sign]
  cases isSubnormal F c e <;> cases sg <;> rfl

/-- A bit of a field is the bit of the register it is a copy of (00_scope.md R10). -/
theorem bitAt_slice {w : Nat} (v : BitVec w) {a b k : Nat} (hb : b < w) (hk : a + k ≤ b) :
    bitAt (slice v a b) k = bitAt v (a + k) := by
  simp only [bitAt, slice, BitVec.getMsbD, BitVec.getLsbD_extractLsb']
  rw [decide_eq_true (by omega), decide_eq_true (by omega), decide_eq_true (by omega), Bool.true_and, Bool.true_and,
    Bool.true_and]
  congr 1
  omega

/-- The bits of DRN are those of its field (10_state.md R32). -/
theorem drn_bits {v : BitVec 64} {x : BitVec 3} (h : slice v 29 31 = x) :
    bitAt v 29 = bitAt x 0 ∧ bitAt v 30 = bitAt x 1 ∧ bitAt v 31 = bitAt x 2 := by
  rw [← h, bitAt_slice v (by omega) (by omega), bitAt_slice v (by omega) (by omega),
    bitAt_slice v (by omega) (by omega)]
  exact ⟨rfl, rfl, rfl⟩

/-- Settles O25: the tables, read off; a number is subnormal below Nmin by its count of digits. -/
theorem statusRegisterTables : Obligations.StatusRegisterTables := by
  refine ⟨fun v => ⟨?_, ?_, ?_, ?_, ?_, ?_, ?_, ?_, rfl, rfl, rfl, rfl, rfl, rfl, rfl, rfl⟩, fun F sg c cc e => ?_⟩
  iterate 8
    · intro h
      obtain ⟨h29, h30, h31⟩ := drn_bits h
      unfold drnMode
      rw [h29, h30, h31]
      rfl
  refine ⟨by cases sg <;> rfl, by cases sg <;> rfl, by cases sg <;> rfl, by cases sg <;> rfl, fun hc h => ?_, fun h => ?_⟩
  · rw [fprfOf_fin hc, if_pos ((isSubnormal_iff hc e).mpr h)]
  · have hc : c ≠ 0 := by
      rintro rfl
      rw [finValue_false] at h
      exact absurd h (by simpa using ten_zpow_pos _)
    rw [fprfOf_fin hc, if_neg (fun hs => absurd ((isSubnormal_iff hc e).mp hs) (not_lt.mpr h))]

end Sys2Proof.Machine
end

section
/-! Rounding and delivery of finite results (41_dfp_execution_model.md R160 to R200): what `RoundInt`, `RoundP`,
`SelectForm` and `Deliver` answer, as numbers and as rationals. -/

namespace Sys2Proof.Machine

-- One proof at a time: elaborated in parallel, they need more memory than the check allows.
set_option Elab.async false

/-! ### Rounding to an integer (R166) -/

/-- What rounding num / den to an integer can do: nothing when it is one, else go up or down as the mode says. -/
theorem roundInt_cases (mode : RMode) (sg : Bool) (num den : Nat) :
    (num % den = 0 ∧ roundInt mode sg num den = ⟨num / den, false, false⟩) ∨
    (num % den ≠ 0 ∧ roundsUp mode sg (num / den) (num % den) den = true ∧
      roundInt mode sg num den = ⟨num / den + 1, true, true⟩) ∨
    (num % den ≠ 0 ∧ roundsUp mode sg (num / den) (num % den) den = false ∧
      roundInt mode sg num den = ⟨num / den, true, false⟩) := by
  unfold roundInt
  by_cases h0 : num % den = 0
  · exact .inl ⟨h0, if_pos h0⟩
  · cases hup : roundsUp mode sg (num / den) (num % den) den
    · exact .inr (.inr ⟨h0, rfl, by rw [if_neg h0, if_neg Bool.false_ne_true]⟩)
    · exact .inr (.inl ⟨h0, rfl, by rw [if_neg h0, if_pos rfl]⟩)

/-- Settles O26: the quotient or the next integer, by the remainder and the mode. -/
theorem roundIntByMode : Obligations.RoundIntByMode := by
  intro mode sg num den hden
  have hdiv : num / den * den + num % den = num := Nat.div_add_mod' num den
  have hmod := Nat.mod_lt num hden
  have hnext : (num / den + 1) * den = num / den * den + den := by ring
  rcases roundInt_cases mode sg num den with ⟨h0, he⟩ | ⟨h0, hup, he⟩ | ⟨h0, hup, he⟩ <;> rw [he] <;> dsimp only
  · exact ⟨by simp; omega, by simp; omega, by omega, fun h => Bool.noConfusion h⟩
  · rw [hnext]
    refine ⟨by simp; omega, by simp; omega, by omega, fun _ => ?_⟩
    cases mode <;> simp only [roundsUp, Bool.or_eq_true, Bool.and_eq_true, decide_eq_true_eq] at hup
    case rne => exact ⟨by omega, by omega, by omega⟩
    case rtz => exact absurd hup Bool.false_ne_true
    case rtpi => exact hup.symm
    case rtmi => exact hup.symm
    case rnaz => exact ⟨by omega, by omega, fun _ => rfl⟩
    case rntz => exact ⟨by omega, by omega, by omega⟩
    case rafz => rfl
    case rfsp => exact ⟨by simpa using hup, by omega, by omega⟩
  · refine ⟨by simp; omega, by simp; omega, by omega, fun _ => ?_⟩
    cases mode <;>
      simp only [roundsUp, Bool.or_eq_false_iff, Bool.and_eq_false_iff, decide_eq_false_iff_not] at hup
    case rne => exact ⟨by omega, by omega, by omega⟩
    case rtz => rfl
    case rtpi => exact hup.symm
    case rtmi => exact hup.symm
    case rnaz => exact ⟨by omega, by omega, by omega⟩
    case rntz => exact ⟨by omega, by omega, fun _ => rfl⟩
    case rafz => exact absurd hup (by simp)
    case rfsp => exact ⟨by simp; omega, by omega, by omega⟩

/-- The same as rationals: num / den is rounded to n in the mode; inexact says that n is not num / den, incremented that it
is above it. -/
theorem roundInt_spec (mode : RMode) (sg : Bool) (num : Nat) {den : Nat} (hden : 0 < den) :
    RoundsTo mode sg ((num : ℚ) / den) (roundInt mode sg num den).n ∧
      ((roundInt mode sg num den).inexact = true ↔ ((roundInt mode sg num den).n : ℚ) ≠ (num : ℚ) / den) ∧
      ((roundInt mode sg num den).incremented = true ↔ (num : ℚ) / den < (roundInt mode sg num den).n) := by
  have hd : (0 : ℚ) < den := by exact_mod_cast hden
  have hx : (num : ℚ) / den = (num / den : Nat) + ((num % den : Nat) : ℚ) / den := by
    have : (num : ℚ) = den * (num / den : Nat) + (num % den : Nat) := by exact_mod_cast (Nat.div_add_mod num den).symm
    field_simp
    exact this
  have hlt : ((num % den : Nat) : ℚ) / den < 1 := by
    rw [div_lt_one hd]
    exact_mod_cast Nat.mod_lt num hden
  have hfloor : ⌊(num : ℚ) / den⌋₊ = num / den := Nat.floor_div_eq_div num den
  have h2lt : (den < 2 * (num % den)) ↔ (1 : ℚ) < 2 * (((num % den : Nat) : ℚ) / den) := by
    rw [mul_div_assoc', one_lt_div hd]
    exact_mod_cast Iff.rfl
  have h2eq : (2 * (num % den) = den) ↔ 2 * (((num % den : Nat) : ℚ) / den) = 1 := by
    rw [mul_div_assoc', div_eq_one_iff_eq hd.ne']
    exact_mod_cast Iff.rfl
  have h2le : (den ≤ 2 * (num % den)) ↔ (1 : ℚ) ≤ 2 * (((num % den : Nat) : ℚ) / den) := by
    rw [mul_div_assoc', one_le_div hd]
    exact_mod_cast Iff.rfl
  rcases roundInt_cases mode sg num den with ⟨h0, he⟩ | ⟨h0, hup, he⟩ | ⟨h0, hup, he⟩ <;> rw [he] <;> dsimp only
  · have heq : ((num / den : Nat) : ℚ) = (num : ℚ) / den := by rw [hx, h0]; simp
    exact ⟨.inl heq, by simp [heq], by simp [heq]⟩
  all_goals
    have hpos : 0 < ((num % den : Nat) : ℚ) / den := div_pos (by exact_mod_cast Nat.pos_of_ne_zero h0) hd
    generalize ((num % den : Nat) : ℚ) / den = f at *
    unfold RoundsTo
    rw [hfloor]
    rw [hx]
    generalize num / den = q at *
    push_cast
  · refine ⟨.inr ⟨by intro h; linarith, by linarith, by linarith, ?_⟩, ⟨fun _ h => by linarith, fun _ => rfl⟩,
      ⟨fun _ => by linarith, fun _ => rfl⟩⟩
    cases mode <;> simp only [roundsUp, Bool.or_eq_true, Bool.and_eq_true, decide_eq_true_eq] at hup ⊢
    case rne =>
      rw [h2lt, h2eq] at hup
      refine ⟨by rcases hup with h | h <;> linarith, by linarith, fun h => ?_⟩
      rcases hup with h1 | h1
      · rcases h with h | h <;> linarith
      · omega
    case rtz => exact absurd hup Bool.false_ne_true
    case rtpi => exact ⟨fun _ => by simpa using hup, fun _ => by linarith⟩
    case rtmi => exact ⟨fun _ => hup, fun _ => by linarith⟩
    case rnaz =>
      rw [h2le] at hup
      exact ⟨by linarith, by linarith⟩
    case rntz =>
      rw [h2lt] at hup
      exact ⟨by linarith, by linarith⟩
    case rafz => linarith
    case rfsp => exact ⟨fun _ => hup, fun _ => by linarith⟩
  · refine ⟨.inr ⟨by intro h; linarith, by linarith, by linarith, ?_⟩, ⟨fun _ h => by linarith, fun _ => rfl⟩,
      ⟨fun h => h.elim, fun _ => by linarith⟩⟩
    cases mode <;>
      simp only [roundsUp, Bool.or_eq_false_iff, Bool.and_eq_false_iff, decide_eq_false_iff_not] at hup ⊢
    case rne =>
      rw [h2lt, h2eq] at hup
      refine ⟨by linarith, by linarith [hup.1], fun h => ?_⟩
      have h1 : 2 * f = 1 := by rcases h with h | h <;> linarith
      rcases hup.2 with h2 | h2
      · exact absurd h1 h2
      · omega
    case rtz => linarith
    case rtpi => exact ⟨fun h => by linarith, fun h => by simp [h] at hup⟩
    case rtmi => exact ⟨fun h => by linarith, fun h => by simp [h] at hup⟩
    case rnaz =>
      rw [h2le] at hup
      exact ⟨by linarith, by linarith⟩
    case rntz =>
      rw [h2lt] at hup
      exact ⟨by linarith, by linarith⟩
    case rafz => exact absurd hup (by simp)
    case rfsp => exact ⟨fun h => by linarith, fun h => by omega⟩

/-! ### Magnitudes (R160, R175) -/

/-- A power of ten with its exponent split in two natural numbers. -/
theorem ten_pow_toNat_div (a : Int) : ((10 ^ a.toNat : Nat) : ℚ) / ((10 ^ (-a).toNat : Nat) : ℚ) = (10 : ℚ) ^ a := by
  rw [← ten_zpow_natCast, ← ten_zpow_natCast, div_eq_iff (ten_zpow_pos _).ne', ← ten_zpow_add]
  congr 1
  omega

theorem Mag.denAt_pos {v : Mag} (hd : 0 < v.den) (e : Int) : 0 < v.denAt e := Nat.mul_pos hd (by positivity)

/-- The magnitude in units of ten to the e. -/
theorem Mag.numAt_div_denAt (v : Mag) (e : Int) : (v.numAt e : ℚ) / v.denAt e = v.value / (10 : ℚ) ^ e := by
  unfold Mag.numAt Mag.denAt Mag.value
  rw [show e - v.exp = -(v.exp - e) by omega]
  push_cast
  rw [mul_div_mul_comm]
  have h := ten_pow_toNat_div (v.exp - e)
  push_cast at h
  rw [h, mul_div_assoc, ← zpow_sub₀ (by norm_num : (10 : ℚ) ≠ 0)]

theorem Mag.value_pos {v : Mag} (hn : 0 < v.num) (hd : 0 < v.den) : 0 < v.value :=
  mul_pos (div_pos (by exact_mod_cast hn) (by exact_mod_cast hd)) (ten_zpow_pos _)

theorem Mag.value_scale (v : Mag) (k : Int) : (v.scale k).value = v.value * (10 : ℚ) ^ k := by
  unfold Mag.value Mag.scale
  dsimp only
  rw [ten_zpow_add, mul_assoc]

/-- `floorLog10` is the exponent of the leading digit. -/
theorem Mag.floorLog10_spec {v : Mag} (hn : 0 < v.num) (hd : 0 < v.den) :
    (10 : ℚ) ^ v.floorLog10 ≤ v.value ∧ v.value < (10 : ℚ) ^ (v.floorLog10 + 1) := by
  obtain ⟨hn0, hnlo, hnhi⟩ := digits_spec hn
  obtain ⟨hd0, hdlo, hdhi⟩ := digits_spec hd
  have hdq : (0 : ℚ) < v.den := by exact_mod_cast hd
  have hratio : ∀ k : Int, (v.den * 10 ^ k.toNat ≤ v.num * 10 ^ (-k).toNat) ↔ (10 : ℚ) ^ k ≤ (v.num : ℚ) / v.den := by
    intro k
    have hp : (0 : ℚ) < ((10 ^ (-k).toNat : Nat) : ℚ) := by positivity
    rw [← ten_pow_toNat_div, div_le_div_iff₀ hp hdq, mul_comm v.den]
    exact_mod_cast Iff.rfl
  have hlow : (10 : ℚ) ^ ((digits v.num : Int) - digits v.den - 1) ≤ (v.num : ℚ) / v.den := by
    rw [le_div_iff₀ hdq]
    calc (10 : ℚ) ^ ((digits v.num : Int) - digits v.den - 1) * v.den
        ≤ (10 : ℚ) ^ ((digits v.num : Int) - digits v.den - 1) * (10 : ℚ) ^ (digits v.den : Int) := by
          rw [ten_zpow_natCast]
          exact mul_le_mul_of_nonneg_left (by exact_mod_cast hdhi.le) (ten_zpow_pos _).le
      _ = (10 : ℚ) ^ ((digits v.num - 1 : Nat) : Int) := by rw [← ten_zpow_add]; congr 1; omega
      _ ≤ v.num := by rw [ten_zpow_natCast]; exact_mod_cast hnlo
  have hhigh : (v.num : ℚ) / v.den < (10 : ℚ) ^ ((digits v.num : Int) - digits v.den + 1) := by
    rw [div_lt_iff₀ hdq]
    calc (v.num : ℚ) < (10 : ℚ) ^ (digits v.num : Int) := by rw [ten_zpow_natCast]; exact_mod_cast hnhi
      _ = (10 : ℚ) ^ ((digits v.num : Int) - digits v.den + 1) * (10 : ℚ) ^ ((digits v.den - 1 : Nat) : Int) := by
          rw [← ten_zpow_add]; congr 1; omega
      _ ≤ (10 : ℚ) ^ ((digits v.num : Int) - digits v.den + 1) * v.den := by
          rw [ten_zpow_natCast]
          exact mul_le_mul_of_nonneg_left (by exact_mod_cast hdlo) (ten_zpow_pos _).le
  have hshift : ∀ k : Int, (10 : ℚ) ^ (v.exp + k) = (10 : ℚ) ^ k * (10 : ℚ) ^ v.exp := by
    intro k
    rw [add_comm, ten_zpow_add]
  unfold Mag.floorLog10 Mag.value
  dsimp only
  generalize (digits v.num : Int) - digits v.den = k at *
  split
  · next h =>
    rw [add_assoc, hshift, hshift]
    exact ⟨mul_le_mul_of_nonneg_right ((hratio k).mp h) (ten_zpow_pos _).le,
      mul_lt_mul_of_pos_right hhigh (ten_zpow_pos _)⟩
  · next h =>
    rw [show v.exp + k - 1 = v.exp + (k - 1) by omega, show v.exp + (k - 1) + 1 = v.exp + k by omega, hshift, hshift]
    exact ⟨mul_le_mul_of_nonneg_right hlow (ten_zpow_pos _).le,
      mul_lt_mul_of_pos_right (not_le.mp fun hle => h ((hratio k).mpr hle)) (ten_zpow_pos _)⟩

/-- In units of ten to `precExp P` a magnitude has exactly P integer digits (R175). -/
theorem Mag.precExp_spec {v : Mag} {P : Nat} (hP : 0 < P) (hn : 0 < v.num) (hd : 0 < v.den) :
    (10 : ℚ) ^ (P - 1) * (10 : ℚ) ^ v.precExp P ≤ v.value ∧ v.value < (10 : ℚ) ^ P * (10 : ℚ) ^ v.precExp P := by
  obtain ⟨hlo, hhi⟩ := Mag.floorLog10_spec hn hd
  have h1 : (10 : ℚ) ^ (P - 1) * (10 : ℚ) ^ v.precExp P = (10 : ℚ) ^ v.floorLog10 := by
    rw [← zpow_natCast, ← ten_zpow_add]
    congr 1
    unfold Mag.precExp
    omega
  have h2 : (10 : ℚ) ^ P * (10 : ℚ) ^ v.precExp P = (10 : ℚ) ^ (v.floorLog10 + 1) := by
    rw [← zpow_natCast, ← ten_zpow_add]
    congr 1
    unfold Mag.precExp
    omega
  rw [h1, h2]
  exact ⟨hlo, hhi⟩

/-- A magnitude has its digits above ten to the xmin exactly when it is at least Nmin (R140, R180). -/
theorem Mag.precExp_lt_iff {v : Mag} {P : Nat} (hn : 0 < v.num) (hd : 0 < v.den) (lo : Int) :
    v.precExp P < lo ↔ v.value < (10 : ℚ) ^ (lo + P - 1) := by
  obtain ⟨hlo, hhi⟩ := Mag.floorLog10_spec hn hd
  unfold Mag.precExp
  constructor
  · intro h
    exact hhi.trans_le (ten_zpow_le_iff.mpr (by omega))
  · intro h
    have := ten_zpow_lt_iff.mp (hlo.trans_lt h)
    omega

/-- Rounding to a multiple of ten to the e. -/
theorem roundAt_spec (mode : RMode) (sg : Bool) {v : Mag} (hd : 0 < v.den) (e : Int) :
    RoundsTo mode sg (v.value / (10 : ℚ) ^ e) (roundAt mode sg v e).n ∧
      ((roundAt mode sg v e).inexact = true ↔ finValue false (roundAt mode sg v e).n e ≠ v.value) ∧
      ((roundAt mode sg v e).incremented = true ↔ v.value < finValue false (roundAt mode sg v e).n e) := by
  obtain ⟨h1, h2, h3⟩ := roundInt_spec mode sg (v.numAt e) (Mag.denAt_pos hd e)
  rw [Mag.numAt_div_denAt] at h1 h2 h3
  refine ⟨h1, h2.trans ?_, h3.trans ?_⟩
  · rw [finValue_false, ne_eq, ne_eq, eq_div_iff (ten_zpow_pos e).ne']
    rfl
  · rw [finValue_false, div_lt_iff₀ (ten_zpow_pos e)]
    rfl

/-- A number is rounded to an integer less than one away. -/
theorem RoundsTo.near {mode : RMode} {sg : Bool} {x : ℚ} {n : Nat} (h : RoundsTo mode sg x n) :
    (n : ℚ) < x + 1 ∧ x < n + 1 := by
  rcases h with h | ⟨-, h1, h2, -⟩
  · constructor <;> linarith
  · exact ⟨h1, h2⟩

/-- A number between two integers is rounded to one between them. -/
theorem RoundsTo.le_of_le {mode : RMode} {sg : Bool} {x : ℚ} {n lo : Nat} (h : RoundsTo mode sg x n) (hlo : (lo : ℚ) ≤ x) :
    lo ≤ n := by
  have : (lo : ℚ) < (n + 1 : Nat) := by push_cast; linarith [h.near.2]
  have : lo < n + 1 := by exact_mod_cast this
  omega

theorem RoundsTo.le_of_lt {mode : RMode} {sg : Bool} {x : ℚ} {n hi : Nat} (h : RoundsTo mode sg x n) (hhi : x < hi) :
    n ≤ hi := by
  have : (n : ℚ) < (hi + 1 : Nat) := by push_cast; linarith [h.near.1]
  have : n < hi + 1 := by exact_mod_cast this
  omega

/-! ### Rounding to P digits (R175) -/

/-- The renormalised form of ten to the P units has the same value. -/
theorem finValue_renormalised {P : Nat} (hP : 0 < P) (e : Int) :
    finValue false (10 ^ (P - 1)) (e + 1) = finValue false (10 ^ P) e := by
  obtain ⟨k, rfl⟩ : ∃ k, P = k + 1 := ⟨P - 1, by omega⟩
  rw [finValue_false, finValue_false, ten_zpow_add]
  push_cast
  ring

/-- What `RoundP` answers: the P digits, with the exponent at which they stand, and whether it is inexact or above. -/
theorem roundP_spec {P : Nat} (hP : 0 < P) (mode : RMode) (sg : Bool) {v : Mag} (hn : 0 < v.num) (hd : 0 < v.den) :
    RoundsToDigits P mode sg v.value (roundP P mode sg v).c (roundP P mode sg v).e ∧
      (10 ^ (P - 1) ≤ (roundP P mode sg v).c ∧ (roundP P mode sg v).c < 10 ^ P) ∧
      (v.precExp P ≤ (roundP P mode sg v).e ∧ (roundP P mode sg v).e ≤ v.precExp P + 1) ∧
      ((roundP P mode sg v).inexact = true ↔
        finValue false (roundP P mode sg v).c (roundP P mode sg v).e ≠ v.value) ∧
      ((roundP P mode sg v).incremented = true ↔
        v.value < finValue false (roundP P mode sg v).c (roundP P mode sg v).e) := by
  obtain ⟨hlo, hhi⟩ := Mag.precExp_spec hP hn hd
  obtain ⟨hr, hinex, hinc⟩ := roundAt_spec mode sg hd (v.precExp P)
  have hge : 10 ^ (P - 1) ≤ (roundAt mode sg v (v.precExp P)).n :=
    hr.le_of_le (by rw [le_div_iff₀ (ten_zpow_pos _)]; exact_mod_cast hlo)
  have hle : (roundAt mode sg v (v.precExp P)).n ≤ 10 ^ P :=
    hr.le_of_lt (by rw [div_lt_iff₀ (ten_zpow_pos _)]; exact_mod_cast hhi)
  have hpow : 10 ^ (P - 1) < 10 ^ P := Nat.pow_lt_pow_right (by norm_num) (by omega)
  unfold roundP
  dsimp only
  by_cases hm : (roundAt mode sg v (v.precExp P)).n = 10 ^ P
  · rw [if_pos hm, finValue_renormalised hP, ← hm]
    exact ⟨⟨_, _, hlo, hhi, hr, by rw [if_pos hm]; exact ⟨rfl, rfl⟩⟩, ⟨le_rfl, hm ▸ hpow⟩, ⟨(lt_add_one _).le, le_rfl⟩,
      hinex, hinc⟩
  · rw [if_neg hm]
    exact ⟨⟨_, _, hlo, hhi, hr, by rw [if_neg hm]; exact ⟨rfl, rfl⟩⟩, ⟨hge, lt_of_le_of_ne hle hm⟩,
      ⟨le_rfl, (lt_add_one _).le⟩,
      hinex, hinc⟩

/-- The rounded value is less than one unit of its last digit away. -/
theorem RoundsToDigits.near {P : Nat} (hP : 0 < P) {mode : RMode} {sg : Bool} {q : ℚ} {n : Nat} {e : Int}
    (h : RoundsToDigits P mode sg q n e) :
    finValue false n e - q < (10 : ℚ) ^ e ∧ q - finValue false n e < (10 : ℚ) ^ e := by
  obtain ⟨e0, m, -, -, hr, hform⟩ := h
  have hpos := ten_zpow_pos e0
  have hnear : finValue false m e0 - q < (10 : ℚ) ^ e0 ∧ q - finValue false m e0 < (10 : ℚ) ^ e0 := by
    obtain ⟨h1, h2⟩ := hr.near
    rw [finValue_false]
    rw [div_add_one hpos.ne', lt_div_iff₀ hpos] at h1
    rw [div_lt_iff₀ hpos] at h2
    constructor <;> linarith
  split at hform
  · next hm =>
    obtain ⟨rfl, rfl⟩ := hform
    have : (10 : ℚ) ^ e0 < (10 : ℚ) ^ (e0 + 1) := ten_zpow_lt_iff.mpr (by omega)
    rw [finValue_renormalised hP, ← hm]
    constructor <;> linarith [hnear.1, hnear.2]
  · obtain ⟨rfl, rfl⟩ := hform
    exact hnear

/-- Settles O27: `RoundP` rounds to P digits, less than one unit away. -/
theorem roundPToPrecision : Obligations.RoundPToPrecision := by
  intro P mode sg v hP hn hd
  obtain ⟨hdig, ⟨hlo, hhi⟩, -, hinex, hinc⟩ := roundP_spec hP mode sg hn hd
  obtain ⟨h1, h2⟩ := hdig.near hP
  refine ⟨hlo, hhi, h1, h2, ?_, hinc⟩
  rw [← Bool.not_eq_true, hinex, not_not]

end Sys2Proof.Machine
end

section
/-! Form selection and delivery (41_dfp_execution_model.md R176, R180, R196 to R199): each answer of `Deliver` as the number
it holds, and the values and exponents that lead to it. -/

namespace Sys2Proof.Machine

-- One proof at a time: elaborated in parallel, they need more memory than the check allows.
set_option Elab.async false

/-! ### Rounding is a function (R166, R175) -/

/-- No number is rounded in one mode to two integers. -/
theorem RoundsTo.not_lt_of {mode : RMode} {sg : Bool} {x : ℚ} {m n : Nat} (hm : RoundsTo mode sg x m)
    (hn : RoundsTo mode sg x n) : ¬ m < n := by
  intro hlt
  have hmn : (m : ℚ) + 1 ≤ n := by exact_mod_cast hlt
  have hmx := hm.near.2
  have hnx := hn.near.1
  have hn1 : n = m + 1 := by
    have : (n : ℚ) < (m + 2 : Nat) := by push_cast; linarith
    have : n < m + 2 := by exact_mod_cast this
    omega
  rcases hm with hm | ⟨-, -, -, hm⟩
  · linarith
  rcases hn with hn | ⟨-, -, -, hn⟩
  · linarith
  have hmn' : (n : ℚ) = m + 1 := by rw [hn1]; push_cast; rfl
  cases mode <;> simp only at hm hn
  case rne =>
    have hm2 := hm.2.2 (.inr (by linarith [hm.2.1, hn.1]))
    have hn2 := hn.2.2 (.inl (by linarith [hm.2.1, hn.1]))
    omega
  case rtz => linarith
  case rtpi => linarith [hm.mpr (hn.mp (by linarith))]
  case rtmi => linarith [hm.mpr (hn.mp (by linarith))]
  case rnaz => linarith [hm.2, hn.1]
  case rntz => linarith [hm.2, hn.1]
  case rafz => linarith
  case rfsp => linarith [hm.mpr (hn.mp (by linarith))]

theorem RoundsTo.unique {mode : RMode} {sg : Bool} {x : ℚ} {m n : Nat} (hm : RoundsTo mode sg x m)
    (hn : RoundsTo mode sg x n) : m = n :=
  le_antisymm (not_lt.mp (hn.not_lt_of hm)) (not_lt.mp (hm.not_lt_of hn))

/-- The exponent at which a number has P integer digits is one. -/
theorem exp_le_of_digits {P : Nat} (hP : 0 < P) {q : ℚ} {a b : Int} (ha : (10 : ℚ) ^ (P - 1) * (10 : ℚ) ^ a ≤ q)
    (hb : q < (10 : ℚ) ^ P * (10 : ℚ) ^ b) : a ≤ b := by
  rw [← zpow_natCast, ← ten_zpow_add] at ha hb
  have := ten_zpow_lt_iff.mp (ha.trans_lt hb)
  omega

theorem RoundsToDigits.unique {P : Nat} (hP : 0 < P) {mode : RMode} {sg : Bool} {q : ℚ} {m n : Nat} {d e : Int}
    (hm : RoundsToDigits P mode sg q m d) (hn : RoundsToDigits P mode sg q n e) : m = n ∧ d = e := by
  obtain ⟨d0, m0, hdlo, hdhi, hmr, hmf⟩ := hm
  obtain ⟨e0, n0, helo, hehi, hnr, hnf⟩ := hn
  obtain rfl : d0 = e0 := le_antisymm (exp_le_of_digits hP hdlo hehi) (exp_le_of_digits hP helo hdhi)
  obtain rfl : m0 = n0 := hmr.unique hnr
  split at hmf
  · next h =>
    rw [if_pos h] at hnf
    exact ⟨hmf.1.trans hnf.1.symm, hmf.2.trans hnf.2.symm⟩
  · next h =>
    rw [if_neg h] at hnf
    exact ⟨hmf.1.trans hnf.1.symm, hmf.2.trans hnf.2.symm⟩

/-! ### Forms of a value (R123, R124) -/

/-- A form at a higher exponent is the one at a lower exponent with the zeros taken off. -/
theorem finValue_eq_iff {c d : Nat} {a b : Int} (h : a ≤ b) :
    finValue false d b = finValue false c a ↔ d * 10 ^ (b - a).toNat = c := by
  have hb : (10 : ℚ) ^ b = ((10 ^ (b - a).toNat : Nat) : ℚ) * (10 : ℚ) ^ a := by
    rw [← ten_zpow_natCast, ← ten_zpow_add]
    congr 1
    omega
  rw [finValue_false, finValue_false, hb, ← mul_assoc, mul_left_inj' (ten_zpow_pos a).ne']
  exact_mod_cast Iff.rfl

/-- A number with all P digits has no form of at most P digits at a lower exponent. -/
theorem exp_le_of_full {P c d : Nat} (hP : 0 < P) {a b : Int} (hc : 10 ^ (P - 1) ≤ c) (hd : d < 10 ^ P)
    (h : finValue false d b = finValue false c a) : a ≤ b := by
  by_contra hlt
  have heq := (finValue_eq_iff (by omega : b ≤ a)).mp h.symm
  have hpow : 10 ^ 1 ≤ 10 ^ (a - b).toNat := Nat.pow_le_pow_right (by norm_num) (by omega)
  have : 10 ^ (P - 1) * 10 ^ 1 ≤ c * 10 ^ (a - b).toNat := Nat.mul_le_mul hc hpow
  rw [← pow_add, Nat.sub_add_cancel hP] at this
  omega

/-- An exact form is moved at most by its trailing zeros (R176). -/
theorem selectForm_exact {s : Bool} {c : Nat} (hc : 0 < c) (e ideal hi : Int) :
    ∃ k : Nat, 10 ^ k ∣ c ∧ selectExp c e false ideal hi = e + k ∧
      selectForm s c e false ideal hi = .fin s (c / 10 ^ k) (e + k) := by
  have hsel : selectExp c e false ideal hi = clamp ideal e (min (e + tz c) hi) := by
    simp [selectExp, hc.ne']
  have hlo : e ≤ clamp ideal e (min (e + tz c) hi) := le_max_left _ _
  have hhi : clamp ideal e (min (e + tz c) hi) ≤ e + tz c := by unfold clamp; omega
  refine ⟨(clamp ideal e (min (e + tz c) hi) - e).toNat, (tz_spec hc _).mpr (by omega), by rw [hsel]; omega, ?_⟩
  unfold selectForm
  dsimp only
  rw [hsel]
  congr 1
  omega

theorem selectForm_inexact (s : Bool) (c : Nat) (e ideal hi : Int) :
    selectForm s c e true ideal hi = .fin s c e := by
  unfold selectForm
  dsimp only
  rw [selectExp_kept, Int.sub_self, Int.toNat_zero, pow_zero, Nat.div_one]

/-- The selected form fits a format when the form given does. -/
theorem selectForm_fits {F : Format} {s : Bool} {c : Nat} {e : Int} (inexact : Bool) (ideal : Int) (hc : c < 10 ^ F.prec)
    (hlo : F.xmin ≤ e) (hhi : e ≤ F.xmax) : (selectForm s c e inexact ideal F.xmax).fits F = true := by
  obtain ⟨h1, h2⟩ := selectExp_bounds c e inexact ideal F.xmax hhi
  exact fits_fin_iff.mpr ⟨(Nat.div_le_self _ _).trans_lt hc, hlo.trans h1, h2⟩

/-- The selected form holds the rounded number: an inexact one is kept, an exact one goes closest to the ideal exponent of
all its forms that are at or above the exponent given (R176). -/
theorem selectForm_holdsRounded {P : Nat} {lo hi ideal e : Int} {sg inexact : Bool} {q : ℚ} {c : Nat} (hc : c < 10 ^ P)
    (hq : 0 < q) (hinex : inexact = true ↔ finValue false c e ≠ q)
    (hmin : ∀ d b, d < 10 ^ P → lo ≤ b → finValue false d b = finValue false c e → e ≤ b) :
    HoldsRounded P lo hi ideal (selectForm sg c e inexact ideal hi) sg q c e := by
  cases inexact with
  | true =>
    rw [selectForm_inexact]
    exact ⟨c, e, rfl, hc, rfl, fun _ => ⟨rfl, rfl⟩, fun h => absurd h (hinex.mp rfl)⟩
  | false =>
    have hexact : finValue false c e = q := by
      by_contra hne
      exact Bool.false_ne_true (hinex.mpr hne)
    have hcpos : 0 < c := by
      rcases Nat.eq_zero_or_pos c with rfl | h
      · rw [finValue_false] at hexact
        simp only [Nat.cast_zero, zero_mul] at hexact
        exact absurd hexact hq.ne
      · exact h
    obtain ⟨k, hdvd, hsel, hform⟩ := selectForm_exact (s := sg) hcpos e ideal hi
    refine ⟨c / 10 ^ k, e + k, hform, (Nat.div_le_self _ _).trans_lt hc, ?_, fun h => absurd hexact h,
      fun _ d b hd hlob hbhi hval => ?_⟩
    · rw [finValue_eq_iff (by omega), show (e + (k : Int) - e).toNat = k by omega]
      exact Nat.div_mul_cancel hdvd
    · rw [← hexact] at hval
      have heb := hmin d b hd hlob hval
      have hzeros : (b - e).toNat ≤ tz c := (tz_spec hcpos _).mp ⟨d, by rw [mul_comm]; exact ((finValue_eq_iff heb).mp hval).symm⟩
      rw [← hsel]
      simp only [selectExp, Bool.false_or, beq_iff_eq, hcpos.ne', if_false, clamp, abs_eq_max_neg]
      omega

/-! ### The answers of `Deliver` -/

theorem Format.prec_pos (F : Format) : 0 < F.prec := by cases F <;> decide

theorem Format.xmin_lt_xmax (F : Format) : F.xmin < F.xmax := by cases F <;> decide

/-- A delivered result is the number q of sign sg, rounded to n × 10^e, with its FI and FR. -/
structure Delivered.Holds (P : Nat) (lo hi ideal : Int) (r : Delivered) (sg : Bool) (q : ℚ) (n : Nat) (e : Int) :
    Prop where
  value : HoldsRounded P lo hi ideal r.d sg q n e
  fi : r.fi = true ↔ finValue false n e ≠ q
  fr : r.fr = true ↔ q < finValue false n e

/-- An answer that is not inexact has the value asked for. -/
theorem Delivered.Holds.exact {P : Nat} {lo hi ideal : Int} {r : Delivered} {sg : Bool} {q : ℚ} {n : Nat} {e : Int}
    (h : r.Holds P lo hi ideal sg q n e) (hfi : r.fi = false) : ∃ c e', r.d = .fin sg c e' ∧ finValue false c e' = q := by
  obtain ⟨c, e', hd, -, hval, -, -⟩ := h.value
  refine ⟨c, e', hd, hval.trans ?_⟩
  by_contra hne
  exact Bool.false_ne_true (hfi.symm.trans (h.fi.mpr hne))

section
variable {F : Format} {sg : Bool} {v : Mag} {ideal : Int} {mode : RMode} (hn : 0 < v.num) (hd : 0 < v.den)
include hn hd

/-- A value rounded to P digits, in the form closest to the ideal exponent. -/
theorem selectForm_roundP_holds (lo hi : Int) {r : Delivered}
    (hrd : r.d = selectForm sg (roundP F.prec mode sg v).c (roundP F.prec mode sg v).e (roundP F.prec mode sg v).inexact
      ideal hi)
    (hfi : r.fi = (roundP F.prec mode sg v).inexact) (hfr : r.fr = (roundP F.prec mode sg v).incremented) :
    r.Holds F.prec lo hi ideal sg v.value (roundP F.prec mode sg v).c (roundP F.prec mode sg v).e := by
  obtain ⟨-, ⟨hlo, hhi⟩, -, hinex, hinc⟩ := roundP_spec F.prec_pos mode sg hn hd
  refine ⟨?_, by rw [hfi]; exact hinex, by rw [hfr]; exact hinc⟩
  rw [hrd]
  exact selectForm_holdsRounded hhi (Mag.value_pos hn hd) hinex
    fun d b hd' _ hval => exp_le_of_full F.prec_pos hlo hd' hval

theorem deliverNormal_holds :
    (deliverNormal F sg (roundP F.prec mode sg v) ideal).Holds F.prec F.xmin F.xmax ideal sg v.value
      (roundP F.prec mode sg v).c (roundP F.prec mode sg v).e :=
  selectForm_roundP_holds hn hd _ _ rfl rfl rfl

/-- A wrapped result is the value shifted and rounded to the precision (R196, R198). -/
theorem deliverWrapped_holds (lo hi shift : Int) (x : Exc) :
    (deliverWrapped F hi sg v ideal mode shift x).Holds F.prec lo hi (ideal + shift) sg (v.value * (10 : ℚ) ^ shift)
      (roundP F.prec mode sg (v.scale shift)).c (roundP F.prec mode sg (v.scale shift)).e := by
  rw [← Mag.value_scale]
  exact selectForm_roundP_holds (v := v.scale shift) hn hd _ _ rfl rfl rfl

omit hn in
/-- A value below Nmin is rounded to less than the precision at the quantum of Dmin. -/
theorem roundAt_xmin_lt (htiny : v.value < (10 : ℚ) ^ (F.xmin + F.prec - 1)) :
    (roundAt mode sg v F.xmin).n < 10 ^ F.prec := by
  have hle : (roundAt mode sg v F.xmin).n ≤ 10 ^ (F.prec - 1) := by
    refine (roundAt_spec mode sg hd F.xmin).1.le_of_lt ?_
    rw [div_lt_iff₀ (ten_zpow_pos _), ← ten_zpow_natCast, ← ten_zpow_add]
    rwa [show ((F.prec - 1 : Nat) : Int) + F.xmin = F.xmin + F.prec - 1 by have := F.prec_pos; omega]
  exact hle.trans_lt (Nat.pow_lt_pow_right (by norm_num) (by have := F.prec_pos; omega))

/-- A tiny result with underflow disabled is the value rounded at the quantum of Dmin (R198, R199). -/
theorem deliverTiny_holds (htiny : v.value < (10 : ℚ) ^ (F.xmin + F.prec - 1)) :
    (deliverTiny F sg v ideal mode).Holds F.prec F.xmin F.xmax ideal sg v.value (roundAt mode sg v F.xmin).n F.xmin := by
  obtain ⟨-, hinex, hinc⟩ := roundAt_spec mode sg hd F.xmin
  have hform := selectForm_holdsRounded (sg := sg) (hi := F.xmax) (ideal := ideal) (roundAt_xmin_lt hd htiny)
    (Mag.value_pos hn hd) hinex (fun _ _ _ hlo _ => hlo)
  unfold deliverTiny
  dsimp only
  cases hi : (roundAt mode sg v F.xmin).inexact <;> rw [hi] at hform hinex
  · have hexact : finValue false (roundAt mode sg v F.xmin).n F.xmin = v.value := by
      by_contra hne
      exact Bool.false_ne_true (hinex.mpr hne)
    rw [if_neg Bool.false_ne_true]
    exact ⟨hform, hinex, by simp [hexact]⟩
  · rw [if_pos rfl]
    rw [selectForm_inexact] at hform
    exact ⟨hform, hinex, hinc⟩

end

/-- What a tiny result with underflow disabled reports. -/
theorem deliverTiny_exc (F : Format) (sg : Bool) (v : Mag) (ideal : Int) (mode : RMode) :
    (deliverTiny F sg v ideal mode).exc = if (deliverTiny F sg v ideal mode).fi = true then [.ux, .xx] else [] := by
  unfold deliverTiny
  dsimp only
  split <;> rfl

/-! ### Which answer it is (R180) -/

section
variable {F : Format} {hi : Int} {sg : Bool} {v : Mag} {ideal : Int} {mode : RMode} {alpha : Int} {fpscr : BitVec 64}

theorem deliver_overflow_enabled (h : F.xmax < (roundP F.prec mode sg v).e) (hoe : enabled fpscr .overflow = true) :
    deliver F hi sg v ideal mode alpha fpscr = deliverWrapped F hi sg v ideal mode (-alpha) .ox := by
  unfold deliver
  rw [if_pos h, if_pos hoe]

theorem deliver_overflow_disabled (h : F.xmax < (roundP F.prec mode sg v).e) (hoe : enabled fpscr .overflow = false) :
    deliver F hi sg v ideal mode alpha fpscr = deliverOverflow F sg mode := by
  unfold deliver
  rw [if_pos h, hoe, if_neg Bool.false_ne_true]

section
variable (hn : 0 < v.num) (hd : 0 < v.den)
include hn hd

/-- A value below Nmin does not overflow. -/
theorem roundP_exp_le_of_tiny (htiny : v.value < (10 : ℚ) ^ (F.xmin + F.prec - 1)) :
    (roundP F.prec mode sg v).e ≤ F.xmax := by
  have h1 := (roundP_spec F.prec_pos mode sg hn hd).2.2.1.2
  have h2 := (Mag.precExp_lt_iff hn hd F.xmin).mpr htiny
  have h3 := F.xmin_lt_xmax
  omega

theorem deliver_tiny_enabled (htiny : v.value < (10 : ℚ) ^ (F.xmin + F.prec - 1))
    (hue : enabled fpscr .underflow = true) :
    deliver F hi sg v ideal mode alpha fpscr = deliverWrapped F hi sg v ideal mode alpha .ux := by
  unfold deliver
  rw [if_neg (not_lt.mpr (roundP_exp_le_of_tiny hn hd htiny)), if_pos ((Mag.precExp_lt_iff hn hd _).mpr htiny), if_pos hue]

theorem deliver_tiny_disabled (htiny : v.value < (10 : ℚ) ^ (F.xmin + F.prec - 1))
    (hue : enabled fpscr .underflow = false) :
    deliver F hi sg v ideal mode alpha fpscr = deliverTiny F sg v ideal mode := by
  unfold deliver
  rw [if_neg (not_lt.mpr (roundP_exp_le_of_tiny hn hd htiny)), if_pos ((Mag.precExp_lt_iff hn hd _).mpr htiny), hue,
    if_neg Bool.false_ne_true]

theorem deliver_normal (hbig : (10 : ℚ) ^ (F.xmin + F.prec - 1) ≤ v.value) (he : (roundP F.prec mode sg v).e ≤ F.xmax) :
    deliver F hi sg v ideal mode alpha fpscr = deliverNormal F sg (roundP F.prec mode sg v) ideal := by
  unfold deliver
  rw [if_neg (not_lt.mpr he), if_neg (fun h => absurd ((Mag.precExp_lt_iff hn hd _).mp h) (not_lt.mpr hbig))]

end
end

/-- The result of a disabled overflow fits its format (R197). -/
theorem deliverOverflow_fits (F : Format) (sg : Bool) (mode : RMode) : (deliverOverflow F sg mode).d.fits F = true := by
  unfold deliverOverflow
  split
  · exact fits_inf_iff.mpr (by positivity)
  · refine fits_fin_iff.mpr ⟨Nat.sub_lt (by positivity) (by norm_num), F.xmin_lt_xmax.le, le_rfl⟩

/-- A tiny result with underflow disabled fits its format. -/
theorem deliverTiny_fits {F : Format} {sg : Bool} {v : Mag} {ideal : Int} {mode : RMode}
    (hd : 0 < v.den) (htiny : v.value < (10 : ℚ) ^ (F.xmin + F.prec - 1)) :
    (deliverTiny F sg v ideal mode).d.fits F = true := by
  have hlt := roundAt_xmin_lt (mode := mode) (sg := sg) hd htiny
  unfold deliverTiny
  dsimp only
  split
  · exact fits_fin_iff.mpr ⟨hlt, le_rfl, F.xmin_lt_xmax.le⟩
  · exact selectForm_fits _ _ hlt le_rfl F.xmin_lt_xmax.le

/-- A normal result fits its format. -/
theorem deliverNormal_fits {F : Format} {sg : Bool} {v : Mag} {ideal : Int} {mode : RMode} (hn : 0 < v.num)
    (hd : 0 < v.den) (hbig : F.xmin ≤ v.precExp F.prec) (he : (roundP F.prec mode sg v).e ≤ F.xmax) :
    (deliverNormal F sg (roundP F.prec mode sg v) ideal).d.fits F = true := by
  obtain ⟨-, ⟨-, hlt⟩, ⟨hexp, -⟩, -⟩ := roundP_spec F.prec_pos mode sg hn hd
  exact selectForm_fits _ _ hlt (hbig.trans hexp) he

/-- Settles O28: without a wrapped result `Deliver` answers an overflow, a tiny or a normal result, and each fits. -/
theorem deliverFitsFormat : Obligations.DeliverFitsFormat := by
  intro F hi sg v ideal mode alpha fpscr hn hd hforce
  rcases deliver_cases F hi sg v ideal mode alpha fpscr with
    ⟨-, -, h⟩ | ⟨-, -, h⟩ | ⟨-, -, -, h⟩ | ⟨-, htiny, -, h⟩ | ⟨he, hbig, h⟩ <;> rw [h] at hforce ⊢
  · cases hforce
  · refine ⟨deliverOverflow_fits F sg mode, fun hfi => ?_⟩
    unfold deliverOverflow at hfi
    split at hfi <;> cases hfi
  · cases hforce
  · have htiny' := (Mag.precExp_lt_iff hn hd _).mp htiny
    exact ⟨deliverTiny_fits hd htiny', (deliverTiny_holds hn hd htiny').exact⟩
  · exact ⟨deliverNormal_fits hn hd hbig he, (deliverNormal_holds hn hd).exact⟩

/-- Settles O29: the tiny result is inexact, at the quantum of Dmin, or exact. -/
theorem tinyValueDisabled : Obligations.TinyValueDisabled := by
  intro F hi sg v ideal mode alpha fpscr hn hd htiny hue
  rw [deliver_tiny_disabled hn hd htiny hue]
  have hholds := deliverTiny_holds (sg := sg) (ideal := ideal) (mode := mode) hn hd htiny
  have hexc := deliverTiny_exc F sg v ideal mode
  cases hfi : (deliverTiny F sg v ideal mode).fi
  · refine .inr ⟨by rw [hexc, hfi, if_neg Bool.false_ne_true], rfl, ?_, hholds.exact hfi⟩
    rw [← Bool.not_eq_true, hholds.fr]
    have hexact : finValue false (roundAt mode sg v F.xmin).n F.xmin = v.value := by
      by_contra hne
      exact Bool.false_ne_true (hfi.symm.trans (hholds.fi.mpr hne))
    exact hexact ▸ lt_irrefl _
  · have hne := hholds.fi.mp hfi
    obtain ⟨c, e', hd', -, -, hkept, -⟩ := hholds.value
    obtain ⟨rfl, rfl⟩ := hkept hne
    obtain ⟨h1, h2⟩ := (roundAt_spec mode sg hd F.xmin).1.near
    have hpos := ten_zpow_pos F.xmin
    rw [div_add_one hpos.ne', lt_div_iff₀ hpos] at h1
    rw [div_lt_iff₀ hpos] at h2
    refine .inl ⟨by rw [hexc, hfi, if_pos rfl], rfl, _, hd', hne, ?_, ?_, hholds.fr⟩ <;> rw [finValue_false] <;> linarith

theorem cons_xxIf (x : Exc) (b : Bool) : x :: xxIf b = if b = true then [x, .xx] else [x] := by cases b <;> rfl

/-- A wrapped result reports its exception, and inexact when it is. -/
theorem deliverWrapped_exc (F : Format) (hi : Int) (sg : Bool) (v : Mag) (ideal : Int) (mode : RMode) (shift : Int)
    (x : Exc) : (deliverWrapped F hi sg v ideal mode shift x).exc =
      if (deliverWrapped F hi sg v ideal mode shift x).fi = true then [x, .xx] else [x] :=
  cons_xxIf x _

/-- Settles O30: both premises lead to the wrapped result; rounding is a function, so the premise of the overflow is about
the exponent that `Deliver` tests. -/
theorem wrappedResults : Obligations.WrappedResults := by
  intro F hi sg v ideal mode alpha fpscr shift x hn hd hcase
  have hdeliver : deliver F hi sg v ideal mode alpha fpscr = deliverWrapped F hi sg v ideal mode shift x := by
    rcases hcase with ⟨⟨n0, e0, hdig, he0⟩, hoe, rfl, rfl⟩ | ⟨htiny, hue, rfl, rfl⟩
    · have hP := (roundP_spec F.prec_pos mode sg hn hd).1
      obtain ⟨-, he⟩ := hP.unique F.prec_pos hdig
      exact deliver_overflow_enabled (he ▸ he0) hoe
    · exact deliver_tiny_enabled hn hd htiny hue
  have hholds := deliverWrapped_holds (F := F) (sg := sg) (ideal := ideal) (mode := mode) hn hd F.xmin hi shift x
  have hdig := (roundP_spec F.prec_pos mode sg (v := v.scale shift) hn hd).1
  rw [Mag.value_scale] at hdig
  rw [hdeliver]
  exact ⟨_, _, hdig, hholds.value, rfl, hholds.fi, hholds.fr, deliverWrapped_exc F hi sg v ideal mode shift x⟩

end Sys2Proof.Machine
end

section
/-! What an effect shows in the state it leaves: the target read back, the FPSCR bits it writes, and from these the results
that the statements about the instructions speak of. -/

namespace Sys2Proof.Machine

-- One proof at a time: elaborated in parallel, they need more memory than the check allows.
set_option Elab.async false

/-! ### Reading a target back (10_state.md R22, R24) -/

/-- A register pair is its two registers put together. -/
theorem toNat_append_doubleword (x y : Doubleword) : (x ++ y).toNat = x.toNat * 2 ^ 64 + y.toNat := by
  rw [BitVec.toNat_append, ← Nat.shiftLeft_add_eq_or_of_lt y.isLt, Nat.shiftLeft_eq]

/-- The bits a target was written with, if they fit its format. -/
theorem sourceBits_targetWrites {F : Format} {frt : FReg} (heven : F = .dfp128 → frt.isEven = true) {w : Nat}
    (hw : w < 2 ^ F.width) (s : State) : sourceBits F (s.writeFprs (targetWrites F frt w)) frt = w := by
  cases F with
  | dfp32 =>
    have hw' : w < 2 ^ 32 := hw
    show (readFpr (s.setFpr frt (BitVec.ofNat 64 w)) frt).toNat % 2 ^ 32 = w
    rw [readFpr_setFpr_same, BitVec.toNat_ofNat]
    omega
  | dfp64 =>
    have hw' : w < 2 ^ 64 := hw
    show (readFpr (s.setFpr frt (BitVec.ofNat 64 w)) frt).toNat = w
    rw [readFpr_setFpr_same, BitVec.toNat_ofNat]
    omega
  | dfp128 =>
    have hw' : w < 2 ^ 128 := hw
    show (readFpr ((s.setFpr frt _).setFpr (oddOf frt) _) frt ++ readFpr ((s.setFpr frt _).setFpr (oddOf frt) _) _).toNat = w
    rw [readFpr_setFpr_ne _ _ (oddOf_ne (heven rfl)), readFpr_setFpr_same, readFpr_setFpr_same, toNat_append_doubleword,
      BitVec.toNat_ofNat, BitVec.toNat_ofNat]
    omega

/-- Operands are read from the registers alone. -/
theorem sourceBits_congr {s t : State} (h : t.fpr = s.fpr) (F : Format) (r : FReg) : sourceBits F t r = sourceBits F s r := by
  cases F <;> simp [sourceBits, readPair, readFpr, h]

theorem sourceDfp_congr {s t : State} (h : t.fpr = s.fpr) (F : Format) (r : FReg) : sourceDfp F t r = sourceDfp F s r := by
  rw [sourceDfp, sourceBits_congr h, sourceDfp]

/-- An operand is a value of its format (R135). -/
theorem sourceDfp_fits (F : Format) (s : State) (r : FReg) : (sourceDfp F s r).fits F = true := decodeDfp_fits F _

/-- The writes put the value d of format F into FRT[p]. -/
def WritesDfp (F : Format) (frt : FReg) (d : Dfp) (ws : List (FReg × Doubleword)) : Prop :=
  ∀ s : State, sourceDfp F (s.writeFprs ws) frt = d

theorem writesDfp_dfpWrites {F : Format} {frt : FReg} {d : Dfp} (heven : F = .dfp128 → frt.isEven = true)
    (hd : d.fits F = true) : WritesDfp F frt d (dfpWrites F frt d) := fun s => by
  rw [sourceDfp, dfpWrites, sourceBits_targetWrites heven (encodeDfp_lt hd), decodeDfp_encodeDfp hd]

/-- A DFP32 value is in the right half of its register, whatever the left half is (46_conversion.md R303). -/
theorem writesDfp_narrow32 {frt : FReg} {d : Dfp} (pad : BitVec 32) (hd : d.fits .dfp32 = true) :
    WritesDfp .dfp32 frt d (narrow32Writes pad frt d) := fun s => by
  have hlt : encodeDfp .dfp32 d < 2 ^ 32 := encodeDfp_lt hd
  have hbits : sourceBits .dfp32 (s.writeFprs (narrow32Writes pad frt d)) frt = encodeDfp .dfp32 d := by
    show (readFpr (s.setFpr frt (pad ++ BitVec.ofNat 32 (encodeDfp .dfp32 d))) frt).toNat % 2 ^ 32 = _
    rw [readFpr_setFpr_same, BitVec.toNat_append, ← Nat.shiftLeft_add_eq_or_of_lt (BitVec.isLt _), Nat.shiftLeft_eq,
      BitVec.toNat_ofNat]
    omega
  rw [sourceDfp, hbits, decodeDfp_encodeDfp hd]

/-- A DFP64 value is in the first register of its pair, whatever the second is (46_conversion.md R304). -/
theorem writesDfp_narrow64 {frt : FReg} {d : Dfp} (pad : Doubleword) (heven : frt.isEven = true)
    (hd : d.fits .dfp64 = true) : WritesDfp .dfp64 frt d (narrow64Writes pad frt d) := fun s => by
  have hlt : encodeDfp .dfp64 d < 2 ^ 64 := encodeDfp_lt hd
  have hbits : sourceBits .dfp64 (s.writeFprs (narrow64Writes pad frt d)) frt = encodeDfp .dfp64 d := by
    show (readFpr ((s.setFpr frt _).setFpr (oddOf frt) pad) frt).toNat = _
    rw [readFpr_setFpr_ne _ _ (oddOf_ne heven), readFpr_setFpr_same, BitVec.toNat_ofNat]
    omega
  rw [sourceDfp, hbits, decodeDfp_encodeDfp hd]

section
variable {e : Effect} {s : State}

/-- The target after an instruction that wrote it. -/
theorem sourceDfp_finish {F : Format} {frt : FReg} {d : Dfp} (h : WritesDfp F frt d e.fprs) :
    sourceDfp F (finish e s) frt = d :=
  (sourceDfp_congr (finish_fpr e s) F frt).trans (h s)

/-! ### The FPSCR bits an effect writes (41_dfp_execution_model.md R205) -/

theorem finish_fpscr_commit {c : Commit} (hc : e.commit = some c) : (finish e s).fpscr = commitFpscr c s.fpscr := by
  rw [finish_fpscr, Effect.fpscrAfter, hc]

theorem exceptions_of_commit {c : Commit} (hc : e.commit = some c) : e.exceptions = c.exc := by
  rw [Effect.exceptions, hc]
  rfl

/-- A status bit is 1 afterwards if it was before or it is that of a reported exception. -/
theorem bitAt_finish_status {c : Commit} (hc : e.commit = some c) (hfi : c.fi.getD false = true → .xx ∈ c.exc) {b : Nat}
    (hb : b ∈ statusBits) :
    bitAt (finish e s).fpscr b = (bitAt s.fpscr b || c.exc.any (fun x => x.bit == b)) := by
  rw [finish_fpscr_commit hc, bitAt_commitFpscr_status _ _ _ hb, Bool.or_assoc]
  congr 1
  cases hg : c.fi.getD false
  · rw [Bool.and_false, Bool.or_false]
  · by_cases h38 : b = 38
    · rw [h38, any_bit_eq_xx, decide_eq_true (hfi hg), Bool.true_or]
    · rw [beq_false_of_ne h38, Bool.false_and, Bool.or_false]

theorem bitAt_finish_exc {c : Commit} (hc : e.commit = some c) (hfi : c.fi.getD false = true → .xx ∈ c.exc) (x : Exc) :
    bitAt (finish e s).fpscr x.bit = (bitAt s.fpscr x.bit || decide (x ∈ c.exc)) := by
  rw [bitAt_finish_status hc hfi x.bit_mem_statusBits]
  congr 1
  rw [Bool.eq_iff_iff, List.any_eq_true, decide_eq_true_iff]
  constructor
  · rintro ⟨y, hy, hbit⟩
    rwa [← exc_bit_injective (beq_iff_eq.mp hbit)]
  · intro hx
    exact ⟨x, hx, beq_self_eq_true _⟩

/-- An effect that reports nothing and does not set FI leaves every status bit. -/
theorem statusKept_of_commit {c : Commit} (hc : e.commit = some c) (hexc : c.exc = []) (hfi : c.fi.getD false = false) :
    StatusKept s (finish e s) := by
  intro b hb
  rw [bitAt_finish_status hc (by rw [hfi]; intro h; cases h) hb, hexc, List.any_nil, Bool.or_false]

theorem bitAt_finish_fi {c : Commit} {b : Bool} (hc : e.commit = some c) (hfi : c.fi = some b) :
    bitAt (finish e s).fpscr 46 = b := by
  rw [finish_fpscr_commit hc, bitAt_commitFpscr_fi, hfi]
  rfl

theorem bitAt_finish_fr {c : Commit} {b : Bool} (hc : e.commit = some c) (hfr : c.fr = some b) :
    bitAt (finish e s).fpscr 45 = b := by
  rw [finish_fpscr_commit hc, bitAt_commitFpscr_fr, hfr]
  rfl

theorem roundingFlagsClear_finish {c : Commit} (hc : e.commit = some c) (hfi : c.fi = some false) (hfr : c.fr = some false) :
    roundingFlagsClear (finish e s).fpscr = true := by
  rw [roundingFlagsClear, bitAt_finish_fi hc hfi, bitAt_finish_fr hc hfr]
  rfl

/-- FPRF is what was written to it. -/
theorem fprfField_finish {c : Commit} {x : BitVec 5} (hc : e.commit = some c) (hx : c.fprf = some x)
    (hpcc : c.fpcc = none) : fprfField (finish e s).fpscr = x := by
  refine BitVec.eq_of_getMsbD_eq fun k hk => ?_
  have hbit : bitAt (fprfField (finish e s).fpscr) k = bitAt (finish e s).fpscr (47 + k) :=
    bitAt_slice _ (by omega) (by omega)
  refine hbit.trans ?_
  rw [finish_fpscr_commit hc, commitFpscr, bitAt_recomputeSummaries_out _ _ (by omega) (by omega),
    bitAt_writeFX_out _ _ _ (by omega) (by omega), hpcc, hx]
  exact bitAt_writeFPRF_some x _ k hk

/-- FPRF stays where neither it nor FPCC is written. -/
theorem fprfField_finish_kept {c : Commit} (hc : e.commit = some c) (hx : c.fprf = none) (hpcc : c.fpcc = none) :
    fprfField (finish e s).fpscr = fprfField s.fpscr := by
  rw [finish_fpscr_commit hc]
  refine fprfField_congr fun j h1 h2 => bitAt_commitFpscr_kept _ _ j (by omega) (by omega) ?_ (.inr (by omega))
    (.inr (by omega)) (.inl hx) (.inl hpcc)
  refine List.any_eq_false.mpr fun x _ hx => ?_
  have hx' := beq_iff_eq.mp hx
  cases x <;> simp only [Exc.bit] at hx' <;> omega

/-- FPCC is what was written to it. -/
theorem fpccField_finish {c : Commit} {x : BitVec 4} (hc : e.commit = some c) (hx : c.fpcc = some x) :
    fpccField (finish e s).fpscr = x := by
  refine BitVec.eq_of_getMsbD_eq fun k hk => ?_
  have hbit : bitAt (fpccField (finish e s).fpscr) k = bitAt (finish e s).fpscr (48 + k) :=
    bitAt_slice _ (by omega) (by omega)
  refine hbit.trans ?_
  rw [finish_fpscr_commit hc, commitFpscr, bitAt_recomputeSummaries_out _ _ (by omega) (by omega),
    bitAt_writeFX_out _ _ _ (by omega) (by omega), hx]
  exact bitAt_writeFPCC_some x _ k hk

/-- What neither is enabled nor heeded completes (60_exceptions.md R375, R376). -/
theorem finish_completed_of_disabled (h : (∀ x ∈ e.exceptions, enabled s.fpscr x.kind = false) ∨ s.feMode = 0b00#2) :
    Completed s (finish e s) :=
  finish_completed e s (h.imp (raised_eq_nil_iff e _).mpr fun hm => (congrArg excModeOf hm).trans excModeOf_00)

/-- A reported exception that is enabled makes FEX 1 (10_state.md R34). -/
theorem bitAt_finish_fex {x : Exc} (hx : x ∈ e.exceptions) (hen : enabled s.fpscr x.kind = true) :
    bitAt (finish e s).fpscr 33 = true := by
  rw [finish_fpscr]
  refine bitAt_fpscrAfter_fex fun hnil => ?_
  exact Bool.false_ne_true (((raised_eq_nil_iff _ _).mp hnil x hx).symm.trans hen)

/-! ### The results -/

section
variable {F : Format} {frt : FReg} {d : Dfp}

/-- An effect that reports nothing, clears FI and FR and writes FPRF delivers an exact result. -/
theorem exactResult_of_writes (hw : WritesDfp F frt d e.fprs)
    (hc : e.commit = some { fi := some false, fr := some false, fprf := some (fprfOf F d) }) :
    ExactResult F frt d s (finish e s) where
  done := finish_completed_of_disabled (.inl (by rw [exceptions_of_commit hc]; intro x hx; cases hx))
  result := sourceDfp_finish hw
  fprf := fprfField_finish hc rfl rfl
  flags := roundingFlagsClear_finish hc rfl rfl
  status := statusKept_of_commit hc rfl rfl

theorem exactEffect_result (heven : F = .dfp128 → frt.isEven = true) (hd : d.fits F = true) (rc : Bool) :
    ExactResult F frt d s (finish (exactEffect F frt rc d) s) :=
  exactResult_of_writes (writesDfp_dfpWrites heven hd) rfl

/-- An invalid operation: suppressed when enabled, a quiet NaN otherwise. -/
theorem invalidResult_of_effect {x : Exc} {exc : List Exc} {sg : Bool} {cc : Nat} (hx : x ∈ exc) (hk : x.kind = .invalid)
    (hexc : ∀ y ∈ exc, y.kind = .invalid) {fprf : Option (BitVec 5)}
    (hc : e.commit = some { exc := exc, fi := some false, fr := some false, fprf := fprf })
    (hdis : bitAt s.fpscr 56 = false → WritesDfp F frt (.qnan sg cc) e.fprs ∧ fprf = some 0b10001#5)
    (hen : bitAt s.fpscr 56 = true → e.fprs = [] ∧ fprf = none) :
    InvalidResult F frt (.qnan sg cc) x.bit s (finish e s) where
  status := by
    have hmem : x ∈ e.exceptions := (exceptions_of_commit hc).symm ▸ hx
    exact ⟨by rw [finish_fpscr]; exact bitAt_fpscrAfter_exception _ hmem,
      by rw [finish_fpscr]; exact bitAt_fpscrAfter_vx _ hmem hk⟩
  flags := roundingFlagsClear_finish hc rfl rfl
  disabled h := by
    obtain ⟨hw, hfprf⟩ := hdis h
    refine ⟨finish_completed_of_disabled (.inl fun y hy => ?_), sourceDfp_finish hw, fprfField_finish hc hfprf rfl⟩
    rw [exceptions_of_commit hc] at hy
    rw [hexc y hy]
    exact h
  enabled h := by
    obtain ⟨hfprs, hfprf⟩ := hen h
    refine ⟨by rw [finish_fpr, hfprs]; rfl, fprfField_finish_kept hc hfprf rfl, bitAt_finish_fex (x := x) ?_ ?_⟩
    · rw [exceptions_of_commit hc]
      exact hx
    · rw [hk]
      exact h

theorem invalidEffect_result (heven : F = .dfp128 → frt.isEven = true) {x : Exc} (hk : x.kind = .invalid) {sg : Bool}
    {cc : Nat} (hd : (Dfp.qnan sg cc).fits F = true) (rc : Bool) :
    InvalidResult F frt (.qnan sg cc) x.bit s (finish (invalidEffect F frt rc s.fpscr [x] (.qnan sg cc)) s) := by
  have hexc : ∀ y ∈ [x], y.kind = .invalid := fun y hy => List.mem_singleton.mp hy ▸ hk
  unfold invalidEffect
  split
  · next h =>
    exact invalidResult_of_effect (List.mem_singleton_self x) hk hexc rfl (fun h' => absurd (h'.symm.trans h) Bool.false_ne_true)
      fun _ => ⟨rfl, rfl⟩
  · next h =>
    exact invalidResult_of_effect (List.mem_singleton_self x) hk hexc rfl
      (fun _ => ⟨writesDfp_dfpWrites heven hd, rfl⟩) fun h' => absurd h' h

/-- An invalid operation does not touch XX. -/
theorem invalidEffect_xx {x : Exc} (hk : x.kind = .invalid) (rc : Bool) (q : Dfp) :
    bitAt (finish (invalidEffect F frt rc s.fpscr [x] q) s).fpscr 38 = bitAt s.fpscr 38 := by
  have hne : Exc.xx ∉ [x] := by
    intro h
    rw [← List.mem_singleton.mp h] at hk
    cases hk
  have key : ∀ {e : Effect} {fprf : Option (BitVec 5)},
      e.commit = some { exc := [x], fi := some false, fr := some false, fprf := fprf } →
      bitAt (finish e s).fpscr 38 = bitAt s.fpscr 38 := by
    intro e fprf hc
    have := bitAt_finish_exc (s := s) hc (fun h => by cases h) .xx
    rwa [show decide (Exc.xx ∈ [x]) = false from decide_eq_false hne, Bool.or_false] at this
  unfold invalidEffect
  split <;> exact key rfl

theorem defaultNaN_fits (F : Format) : defaultNaN.fits F = true := fits_qnan_iff.mpr (by positivity)

/-- A quantum-adjusted result, with its FI and FR. -/
theorem adjustedEffect_result (heven : F = .dfp128 → frt.isEven = true) (hd : d.fits F = true) (fi fr rc : Bool) :
    AdjustedResult F frt d fi fr s (finish (adjustedEffect F frt rc d fi fr) s) := by
  have hc : (adjustedEffect F frt rc d fi fr).commit =
      some { exc := xxIf fi, fi := some fi, fr := some fr, fprf := some (fprfOf F d) } := rfl
  have hxx {b : Nat} (hb : b ∈ statusBits) :=
    bitAt_finish_status (s := s) hc (fun h => (mem_xxIf _ _).mpr ⟨h, rfl⟩) hb
  refine ⟨sourceDfp_finish (writesDfp_dfpWrites heven hd), fprfField_finish hc rfl rfl, bitAt_finish_fi hc rfl,
    bitAt_finish_fr hc rfl, ?_, fun b hb h38 => ?_, fun h => finish_completed_of_disabled ?_, fun hfi hxe => ?_⟩
  · rw [hxx (by decide), any_bit_eq_xx]
    simp
  · have hany : (xxIf fi).any (fun x => x.bit == b) = false :=
      List.any_eq_false.mpr fun x hx hbit => by
        obtain ⟨-, rfl⟩ := (mem_xxIf _ _).mp hx
        exact h38 (beq_iff_eq.mp hbit).symm
    rw [hxx hb, hany, Bool.or_false]
  · rcases h with h | h | h
    · exact .inl fun x hx => by
        obtain ⟨hfi, -⟩ := (mem_xxIf _ _).mp hx
        exact absurd (h.symm.trans hfi) Bool.false_ne_true
    · exact .inl fun x hx => by
        obtain ⟨-, rfl⟩ := (mem_xxIf _ _).mp hx
        exact h
    · exact .inr h
  · exact bitAt_finish_fex (x := .xx) ((mem_xxIf _ _).mpr ⟨hfi, rfl⟩) hxe

/-- A quantum-adjusted result with FI = FR = 0 is an exact one. -/
theorem adjustedEffect_exact (heven : F = .dfp128 → frt.isEven = true) (hd : d.fits F = true) (rc : Bool) :
    ExactResult F frt d s (finish (adjustedEffect F frt rc d false false) s) :=
  exactResult_of_writes (writesDfp_dfpWrites heven hd) rfl

end

/-- An instruction that calls no `Commit` leaves the FPSCR. -/
theorem plainEffect_result (ws : List (FReg × Doubleword)) (rc : Bool) : PlainResult s (finish (plainEffect ws rc) s) :=
  ⟨finish_completed_of_disabled (.inl fun x hx => by cases hx), finish_fpscr _ _⟩

/-- What a compare or test puts in CR[BF] and FPCC. -/
theorem codeEffect_code (bf : CRField) (exc : List Exc) (code : BitVec 4) :
    (finish (codeEffect bf exc code) s).cr[bf] = code ∧ fpccField (finish (codeEffect bf exc code) s).fpscr = code := by
  refine ⟨?_, fpccField_finish (e := codeEffect bf exc code) rfl rfl⟩
  rw [finish_cr_of_code (e := codeEffect bf exc code) rfl rfl, cr_getElem_set, if_pos rfl]

theorem codeEffect_result {bf : CRField} {exc : List Exc} (code : BitVec 4)
    (h : (∀ x ∈ exc, enabled s.fpscr x.kind = false) ∨ s.feMode = 0b00#2) :
    CodeResult bf code s (finish (codeEffect bf exc code) s) :=
  ⟨finish_completed_of_disabled h, (codeEffect_code bf exc code).1, (codeEffect_code bf exc code).2⟩

/-- Without an exception a compare or test completes and leaves the status bits. -/
theorem codeEffect_silent (bf : CRField) (code : BitVec 4) :
    CodeResult bf code s (finish (codeEffect bf [] code) s) ∧ StatusKept s (finish (codeEffect bf [] code) s) :=
  ⟨codeEffect_result code (.inl fun x hx => by cases hx), statusKept_of_silent rfl rfl s⟩

end

end Sys2Proof.Machine
end

section
/-! Delivered results in the state they leave (41_dfp_execution_model.md R180, R196 to R199): from the answer of `Deliver`,
written back, to the result the statements speak of. -/

namespace Sys2Proof.Machine

-- One proof at a time: elaborated in parallel, they need more memory than the check allows.
set_option Elab.async false

/-! ### Wrapped results are values of the format they are written in (R196) -/

theorem Mag.precExp_scale (v : Mag) (P : Nat) (k : Int) : (v.scale k).precExp P = v.precExp P + k := by
  have hlog : (v.scale k).floorLog10 = v.floorLog10 + k := by
    unfold Mag.floorLog10 Mag.scale
    dsimp only
    split <;> omega
  unfold Mag.precExp
  omega

/-- The bounds of a value whose result, wrapped by alpha, is a value of the format Fw. -/
structure WrapFits (F Fw : Format) (alpha : Int) (q : ℚ) : Prop where
  prec : F.prec ≤ Fw.prec
  down : Fw.xmin ≤ F.xmax - alpha
  up : F.xmin + alpha ≤ Fw.xmax
  low : (10 : ℚ) ^ (Fw.xmin - alpha + F.prec - 1) ≤ q
  high : q < (10 : ℚ) ^ (Fw.xmax + alpha + F.prec - 1)

/-- The format a delivered result is written in: its own, or that of a wrapped result. -/
def Delivered.formatIn (F Fw : Format) (r : Delivered) : Format := if r.forceNormal = true then Fw else F

section
variable {F Fw : Format} {sg : Bool} {v : Mag} {ideal : Int} {mode : RMode} (hn : 0 < v.num) (hd : 0 < v.den)
include hn hd

theorem deliverWrapped_fits (x : Exc) {shift : Int} (hprec : F.prec ≤ Fw.prec) (hlo : Fw.xmin ≤ v.precExp F.prec + shift)
    (hhi : v.precExp F.prec + shift < Fw.xmax) : (deliverWrapped F Fw.xmax sg v ideal mode shift x).d.fits Fw = true := by
  obtain ⟨-, ⟨-, hlt⟩, ⟨h1, h2⟩, -⟩ := roundP_spec F.prec_pos mode sg (v := v.scale shift) hn hd
  rw [Mag.precExp_scale] at h1 h2
  exact selectForm_fits _ _ (hlt.trans_le (Nat.pow_le_pow_right (by norm_num) hprec)) (hlo.trans h1)
    (h2.trans (Int.add_one_le_of_lt hhi))

/-- What `Deliver` answers is a value of the format it is written in. -/
theorem deliver_fits {alpha : Int} (hwrap : WrapFits F Fw alpha v.value) (fpscr : BitVec 64) :
    (deliver F Fw.xmax sg v ideal mode alpha fpscr).d.fits
      ((deliver F Fw.xmax sg v ideal mode alpha fpscr).formatIn F Fw) = true := by
  have hlow : Fw.xmin - alpha ≤ v.precExp F.prec :=
    not_lt.mp fun h => absurd ((Mag.precExp_lt_iff hn hd _).mp h) (not_lt.mpr hwrap.low)
  have hhigh : v.precExp F.prec < Fw.xmax + alpha := (Mag.precExp_lt_iff hn hd _).mpr hwrap.high
  have hexp := (roundP_spec F.prec_pos mode sg hn hd).2.2.1.2
  have hdown := hwrap.down
  have hup := hwrap.up
  cases hforce : (deliver F Fw.xmax sg v ideal mode alpha fpscr).forceNormal
  · rw [Delivered.formatIn, hforce, if_neg Bool.false_ne_true]
    exact (deliverFitsFormat F Fw.xmax sg v ideal mode alpha fpscr hn hd hforce).1
  · rw [Delivered.formatIn, hforce, if_pos rfl]
    rcases deliver_cases F Fw.xmax sg v ideal mode alpha fpscr with
      ⟨hover, -, h⟩ | ⟨-, -, h⟩ | ⟨-, htiny, -, h⟩ | ⟨-, -, -, h⟩ | ⟨-, -, h⟩ <;> rw [h] at hforce ⊢
    · exact deliverWrapped_fits hn hd _ hwrap.prec (by omega) (by omega)
    · unfold deliverOverflow at hforce
      split at hforce <;> cases hforce
    · exact deliverWrapped_fits hn hd _ hwrap.prec (by omega) (by omega)
    · unfold deliverTiny at hforce
      dsimp only at hforce
      split at hforce <;> cases hforce
    · cases hforce

end

/-! ### A delivered result written back -/

/-- The state t shows the delivered result r, of an instruction that ran in s. -/
structure Delivered.Shown (F Fw : Format) (frt : FReg) (r : Delivered) (s t : State) : Prop where
  result : sourceDfp (r.formatIn F Fw) t frt = r.d
  fprf : fprfField t.fpscr = deliveredFprf F r
  fi : bitAt t.fpscr 46 = r.fi
  fr : bitAt t.fpscr 45 = r.fr
  status : ∀ b ∈ statusBits, bitAt t.fpscr b = (bitAt s.fpscr b || r.exc.any (fun x => x.bit == b))
  done : (∀ x ∈ r.exc, enabled s.fpscr x.kind = false) ∨ s.feMode = 0b00#2 → Completed s t

theorem shown_of_commit {F Fw : Format} {frt : FReg} {r : Delivered} {e : Effect} (s : State) (hr : r.Reports)
    (hw : WritesDfp (r.formatIn F Fw) frt r.d e.fprs)
    (hc : e.commit = some { exc := r.exc, fi := some r.fi, fr := some r.fr, fprf := some (deliveredFprf F r) }) :
    r.Shown F Fw frt s (finish e s) where
  result := sourceDfp_finish hw
  fprf := fprfField_finish hc rfl rfl
  fi := bitAt_finish_fi hc rfl
  fr := bitAt_finish_fr hc rfl
  status _ hb := bitAt_finish_status hc (fun h => of_decide_eq_true (hr.fi.symm.trans h)) hb
  done h := finish_completed_of_disabled (by rwa [exceptions_of_commit hc])

section
variable {F Fw : Format} {frt : FReg} {r : Delivered} {s t : State}

theorem Delivered.Shown.statusOf (h : r.Shown F Fw frt s t) (x : Exc) :
    bitAt t.fpscr x.bit = (bitAt s.fpscr x.bit || decide (x ∈ r.exc)) := by
  rw [h.status _ x.bit_mem_statusBits]
  congr 1
  rw [Bool.eq_iff_iff, List.any_eq_true, decide_eq_true_iff]
  exact ⟨fun ⟨_, hy, hbit⟩ => exc_bit_injective (beq_iff_eq.mp hbit) ▸ hy, fun hx => ⟨x, hx, beq_self_eq_true _⟩⟩

theorem Delivered.Shown.status_kept (h : r.Shown F Fw frt s t) {x : Exc} (hx : x ∉ r.exc) :
    bitAt t.fpscr x.bit = bitAt s.fpscr x.bit := by
  rw [h.statusOf, decide_eq_false hx, Bool.or_false]

theorem Delivered.Shown.status_set (h : r.Shown F Fw frt s t) {x : Exc} (hx : x ∈ r.exc) : bitAt t.fpscr x.bit = true := by
  rw [h.statusOf, decide_eq_true hx, Bool.or_true]

/-- An exact result, not wrapped, is shown as one. -/
theorem Delivered.Shown.exactResult (h : r.Shown F Fw frt s t) {d : Dfp} (hd : r.d = d) (hfi : r.fi = false)
    (hfr : r.fr = false) (hexc : r.exc = []) (hforce : r.forceNormal = false) : ExactResult F frt d s t where
  done := h.done (.inl (by rw [hexc]; intro x hx; cases hx))
  result := by
    have := h.result
    rwa [Delivered.formatIn, hforce, if_neg Bool.false_ne_true, hd] at this
  fprf := by rw [h.fprf, deliveredFprf, hforce, if_neg Bool.false_ne_true, hd]
  flags := by rw [roundingFlagsClear, h.fi, h.fr, hfi, hfr]; rfl
  status b hb := by rw [h.status b hb, hexc, List.any_nil, Bool.or_false]

/-- What is delivered as a rounded number is shown as one. -/
theorem Delivered.Shown.roundedResult (h : r.Shown F Fw frt s t) (hr : r.Reports) {G : Format} (hG : r.formatIn F Fw = G)
    {P : Nat} {ideal : Int} {sg : Bool} {q : ℚ} {n : Nat} {e : Int} (hh : r.Holds P G.xmin G.xmax ideal sg q n e) :
    RoundedResult G P ideal frt sg q n e s t where
  value := by
    rw [← hG, h.result, hG]
    exact hh.value
  fi := by rw [h.fi]; exact hh.fi
  fr := by rw [h.fr]; exact hh.fr
  xx := by rw [h.fi, hr.fi]; exact h.statusOf .xx

/-- A wrapped result is shown as one. -/
theorem wrappedResult_of_shown {sg : Bool} {v : Mag} {ideal shift : Int} {x : Exc} (hn : 0 < v.num) (hd : 0 < v.den)
    (hx : x = .ox ∨ x = .ux)
    (h : (deliverWrapped F Fw.xmax sg v ideal (drnMode s.fpscr) shift x).Shown F Fw frt s t) :
    WrappedResult Fw F.prec shift ideal frt sg v.value s t where
  value := by
    have hdig := (roundP_spec F.prec_pos (drnMode s.fpscr) sg (v := v.scale shift) hn hd).1
    rw [Mag.value_scale] at hdig
    exact ⟨_, _, hdig, h.roundedResult (deliverWrapped_reports F Fw.xmax sg v ideal _ shift hx) (if_pos rfl)
      (deliverWrapped_holds hn hd Fw.xmin Fw.xmax shift x)⟩
  fprf := h.fprf

/-- Which disabled overflows deliver an infinity (R197). -/
theorem overflowsToInf_iff (mode : RMode) (sg : Bool) : overflowsToInf mode sg = true ↔
    mode = .rne ∨ mode = .rnaz ∨ mode = .rntz ∨ mode = .rafz ∨ (mode = .rtpi ∧ sg = false) ∨ (mode = .rtmi ∧ sg = true) := by
  cases mode <;> simp [overflowsToInf]

theorem deliverOverflow_exc (F : Format) (sg : Bool) (mode : RMode) : (deliverOverflow F sg mode).exc = [.ox, .xx] := by
  unfold deliverOverflow
  split <;> rfl

/-- A disabled overflow is shown as one. -/
theorem overflowResult_of_shown {sg : Bool} (h : (deliverOverflow F sg (drnMode s.fpscr)).Shown F Fw frt s t) :
    OverflowResult F frt sg s t := by
  have hox := h.status_set (x := .ox) (by rw [deliverOverflow_exc]; decide)
  have hxx := h.status_set (x := .xx) (by rw [deliverOverflow_exc]; decide)
  cases hinf : overflowsToInf (drnMode s.fpscr) sg
  · have heq : deliverOverflow F sg (drnMode s.fpscr) =
        { d := .fin sg F.maxCoef F.xmax, fi := true, fr := false, exc := [.ox, .xx], forceNormal := false } := by
      rw [deliverOverflow, hinf, if_neg Bool.false_ne_true]
    rw [heq] at h
    refine ⟨⟨hox, hxx, h.fi⟩, ?_, ?_⟩
    · rw [if_neg (fun hc => Bool.false_ne_true (hinf.symm.trans ((overflowsToInf_iff _ _).mpr hc)))]
      exact ⟨h.result, h.fr⟩
    · exact h.fprf.trans (congrArg (fprfOf F) h.result.symm)
  · have heq : deliverOverflow F sg (drnMode s.fpscr) =
        { d := .inf sg 0, fi := true, fr := true, exc := [.ox, .xx], forceNormal := false } := by
      rw [deliverOverflow, hinf, if_pos rfl]
    rw [heq] at h
    refine ⟨⟨hox, hxx, h.fi⟩, ?_, ?_⟩
    · rw [if_pos ((overflowsToInf_iff _ _).mp hinf)]
      exact ⟨h.result, h.fr⟩
    · exact h.fprf.trans (congrArg (fprfOf F) h.result.symm)

theorem not_mem_xxIf {x : Exc} (hx : x ≠ .xx) (b : Bool) : x ∉ xxIf b := fun h => hx ((mem_xxIf x b).mp h).2

theorem not_mem_deliverWrapped {sg : Bool} {v : Mag} {ideal hi shift : Int} {mode : RMode} {x y : Exc} (hxy : y ≠ x)
    (hy : y ≠ .xx) : y ∉ (deliverWrapped F hi sg v ideal mode shift x).exc := fun h =>
  (List.mem_cons.mp h).elim hxy (not_mem_xxIf hy _)

/-- What `Deliver` answers is shown as the delivery of its value. -/
theorem delivery_of_shown {sg : Bool} {v : Mag} {ideal alpha : Int} (hn : 0 < v.num) (hd : 0 < v.den)
    (h : (deliver F Fw.xmax sg v ideal (drnMode s.fpscr) alpha s.fpscr).Shown F Fw frt s t) :
    Delivery F Fw alpha ideal frt sg v.value s t where
  normal hbig := by
    refine ⟨_, _, (roundP_spec F.prec_pos (drnMode s.fpscr) sg hn hd).1, fun he => ?_, fun he hoe => ?_, fun he hoe => ?_, ?_⟩
    · rw [deliver_normal hn hd hbig he] at h
      exact ⟨h.roundedResult (deliverNormal_reports ..) rfl (deliverNormal_holds hn hd),
        h.status_kept (x := .ox) (not_mem_xxIf (by decide) _), h.fprf.trans (congrArg (fprfOf F) h.result.symm)⟩
    · rw [deliver_overflow_disabled he hoe] at h
      exact overflowResult_of_shown h
    · rw [deliver_overflow_enabled he hoe] at h
      exact ⟨h.status_set (x := .ox) List.mem_cons_self, wrappedResult_of_shown hn hd (.inl rfl) h⟩
    · rcases le_or_gt (roundP F.prec (drnMode s.fpscr) sg v).e F.xmax with he | he
      · rw [deliver_normal hn hd hbig he] at h
        exact h.status_kept (x := .ux) (not_mem_xxIf (by decide) _)
      · cases hoe : enabled s.fpscr .overflow
        · rw [deliver_overflow_disabled he hoe] at h
          exact h.status_kept (x := .ux) (by rw [deliverOverflow_exc]; decide)
        · rw [deliver_overflow_enabled he hoe] at h
          exact h.status_kept (x := .ux) (not_mem_deliverWrapped (by decide) (by decide))
  tiny htiny hue := by
    rw [deliver_tiny_disabled hn hd htiny hue] at h
    have hforce : (deliverTiny F sg v ideal (drnMode s.fpscr)).forceNormal = false := by
      unfold deliverTiny
      dsimp only
      split <;> rfl
    have hF : (deliverTiny F sg v ideal (drnMode s.fpscr)).formatIn F Fw = F := by
      rw [Delivered.formatIn, hforce, if_neg Bool.false_ne_true]
    have hexc := deliverTiny_exc F sg v ideal (drnMode s.fpscr)
    refine ⟨_, (roundAt_spec _ sg hd F.xmin).1, h.roundedResult (deliverTiny_reports ..) hF (deliverTiny_holds hn hd htiny),
      ?_, h.status_kept (x := .ox) ?_, ?_⟩
    · refine (h.statusOf .ux).trans ?_
      rw [h.fi, hexc]
      cases (deliverTiny F sg v ideal (drnMode s.fpscr)).fi <;> rfl
    · rw [hexc]
      split <;> decide
    · rw [h.fprf, deliveredFprf, hforce, if_neg Bool.false_ne_true, ← h.result, hF]
  tinyEnabled htiny hue := by
    rw [deliver_tiny_enabled hn hd htiny hue] at h
    exact ⟨h.status_set (x := .ux) List.mem_cons_self,
      h.status_kept (x := .ox) (not_mem_deliverWrapped (by decide) (by decide)), wrappedResult_of_shown hn hd (.inr rfl) h⟩
  done hdone := h.done (hdone.imp_left fun hne _ _ => enabled_of_noEnables hne _)

end

/-! ### Exact results -/

/-- A number that is an integer is rounded to itself. -/
theorem RoundsTo.eq_of_natCast {mode : RMode} {sg : Bool} {k n : Nat} (h : RoundsTo mode sg (k : ℚ) n) : n = k :=
  h.unique (.inl rfl)

/-- A number with a form at an exponent above is rounded there without error. -/
theorem roundAt_exact {v : Mag} (hd : 0 < v.den) {c : Nat} {e a : Int} (hv : v.value = finValue false c e) (ha : a ≤ e)
    (mode : RMode) (sg : Bool) : finValue false (roundAt mode sg v a).n a = v.value := by
  have hpos := ten_zpow_pos a
  have hk : v.value / (10 : ℚ) ^ a = ((c * 10 ^ (e - a).toNat : Nat) : ℚ) := by
    rw [div_eq_iff hpos.ne', hv, ← finValue_false, finValue_eq_iff ha]
  have hr := (roundAt_spec mode sg hd a).1
  rw [hk] at hr
  rw [hr.eq_of_natCast, hv, eq_comm, finValue_eq_iff ha]

/-- A number with a form of at most P digits is rounded to P digits without error. -/
theorem roundP_exact {P : Nat} (hP : 0 < P) {v : Mag} (hn : 0 < v.num) (hd : 0 < v.den) {c : Nat} {e : Int}
    (hc : c < 10 ^ P) (hv : v.value = finValue false c e) (mode : RMode) (sg : Bool) :
    finValue false (roundP P mode sg v).c (roundP P mode sg v).e = v.value ∧ (roundP P mode sg v).e ≤ e := by
  obtain ⟨-, ⟨hfull, -⟩, -, hinex, -⟩ := roundP_spec hP mode sg hn hd
  have hexp : v.precExp P ≤ e := by
    refine exp_le_of_digits hP (Mag.precExp_spec hP hn hd).1 ?_
    rw [hv, finValue_false]
    exact mul_lt_mul_of_pos_right (by exact_mod_cast hc) (ten_zpow_pos e)
  have hexact : (roundP P mode sg v).inexact = (roundAt mode sg v (v.precExp P)).inexact := by
    unfold roundP
    dsimp only
    split <;> rfl
  have hval : finValue false (roundP P mode sg v).c (roundP P mode sg v).e = v.value := by
    by_contra hne
    exact ((roundAt_spec mode sg hd _).2.1.mp (hexact ▸ hinex.mpr hne)) (roundAt_exact hd hv hexp mode sg)
  exact ⟨hval, exp_le_of_full hP hfull hc (hv.symm.trans hval.symm)⟩

/-- An exact result has the form at the ideal exponent where there is one. -/
theorem Delivered.Holds.at_ideal {P : Nat} {lo hi ideal : Int} {r : Delivered} {sg : Bool} {q : ℚ} {n c : Nat} {e : Int}
    (h : r.Holds P lo hi ideal sg q n e) (hexact : finValue false n e = q) (hc : c < 10 ^ P) (hlo : lo ≤ ideal)
    (hhi : ideal ≤ hi) (hq : finValue false c ideal = q) : r.d = .fin sg c ideal ∧ r.fi = false ∧ r.fr = false := by
  obtain ⟨c', e', hd, -, hval, -, hclosest⟩ := h.value
  have hle := hclosest hexact c ideal hc hlo hhi hq
  rw [sub_self, abs_zero] at hle
  obtain rfl : e' = ideal := sub_eq_zero.mp (abs_nonpos_iff.mp hle)
  have hcc : c' * 10 ^ (e' - e').toNat = c := (finValue_eq_iff le_rfl).mp (hval.trans (hexact.trans hq.symm))
  rw [Int.sub_self, Int.toNat_zero, pow_zero, mul_one] at hcc
  refine ⟨hcc ▸ hd, ?_, ?_⟩
  · rw [← Bool.not_eq_true, h.fi]
    exact not_not.mpr hexact
  · rw [← Bool.not_eq_true, h.fr, hexact]
    exact lt_irrefl q

/-- A number that has a form of the format at the ideal exponent is delivered as that form (R176, R180). -/
theorem deliver_exact {F : Format} {v : Mag} (hn : 0 < v.num) (hd : 0 < v.den) {c : Nat} {e : Int} (hc : c < 10 ^ F.prec)
    (hlo : F.xmin ≤ e) (hhi : e ≤ F.xmax) (hv : v.value = finValue false c e) {fpscr : BitVec 64}
    (hue : enabled fpscr .underflow = false) (hi : Int) (sg : Bool) (mode : RMode) (alpha : Int) :
    (deliver F hi sg v e mode alpha fpscr).d = .fin sg c e ∧ (deliver F hi sg v e mode alpha fpscr).fi = false ∧
      (deliver F hi sg v e mode alpha fpscr).fr = false ∧ (deliver F hi sg v e mode alpha fpscr).exc = [] ∧
      (deliver F hi sg v e mode alpha fpscr).forceNormal = false := by
  obtain ⟨hval, hexp⟩ := roundP_exact F.prec_pos hn hd hc hv mode sg
  rcases le_or_gt ((10 : ℚ) ^ (F.xmin + F.prec - 1)) v.value with hbig | htiny
  · rw [deliver_normal hn hd hbig (hexp.trans hhi)]
    obtain ⟨hd', hfi, hfr⟩ := (deliverNormal_holds hn hd).at_ideal hval hc hlo hhi hv.symm
    refine ⟨hd', hfi, hfr, ?_, rfl⟩
    have hinex : (roundP F.prec mode sg v).inexact = false := hfi
    rw [deliverNormal, hinex]
    rfl
  · rw [deliver_tiny_disabled hn hd htiny hue]
    obtain ⟨hd', hfi, hfr⟩ := (deliverTiny_holds hn hd htiny).at_ideal (roundAt_exact hd hv hlo mode sg) hc hlo hhi hv.symm
    refine ⟨hd', hfi, hfr, by rw [deliverTiny_exc, hfi, if_neg Bool.false_ne_true], ?_⟩
    unfold deliverTiny
    dsimp only
    split <;> rfl

end Sys2Proof.Machine
end

section
/-! The arithmetic instructions (42_arithmetic.md): the action of each table on its operands, and the result of each action. -/

namespace Sys2Proof.Machine

-- One proof at a time: elaborated in parallel, they need more memory than the check allows.
set_option Elab.async false

/-! ### The instructions of a format and their effects -/

/-- Of two instructions, the one of each format, the one given runs with the effect of its format. -/
theorem exec_of_format {F : Format} {i i64 i128 : Instr} {eff : Format → State → Effect}
    (h : (F = .dfp64 ∧ i = i64) ∨ (F = .dfp128 ∧ i = i128)) (hwf : i.wellFormed = true)
    (h64 : ∀ s, effectOf i64 s = eff .dfp64 s) (h128 : ∀ s, effectOf i128 s = eff .dfp128 s) (s : State) :
    exec i s = .next (finish (eff F s) s) := by
  rw [exec_wellFormed hwf]
  rcases h with ⟨rfl, rfl⟩ | ⟨rfl, rfl⟩
  · rw [h64]
  · rw [h128]

/-- The target of the instruction of DFP128 is even (30_encoding.md R103). -/
theorem even_of_format {F : Format} {i i64 i128 : Instr} {r : FReg} (h : (F = .dfp64 ∧ i = i64) ∨ (F = .dfp128 ∧ i = i128))
    (hwf : i.wellFormed = true) (hr : r ∈ i128.pairFields) : F = .dfp128 → r.isEven = true := by
  rcases h with ⟨rfl, -⟩ | ⟨-, rfl⟩
  · intro h
    cases h
  · exact fun _ => List.all_eq_true.mp hwf r hr

/-- The second operand of Add, or of Subtract: a number with its sign inverted (R225). -/
def addend (sub : Bool) (b : Dfp) : Dfp := if sub = true then negateNonNaN b else b

@[simp] theorem addend_fin (sub s : Bool) (c : Nat) (e : Int) : addend sub (.fin s c e) = .fin (s ^^ sub) c e := by
  cases sub <;> simp [addend, negateNonNaN]

@[simp] theorem addend_inf (sub s : Bool) (cc : Nat) : addend sub (.inf s cc) = .inf (s ^^ sub) cc := by
  cases sub <;> simp [addend, negateNonNaN]

@[simp] theorem addend_qnan (sub s : Bool) (cc : Nat) : addend sub (.qnan s cc) = .qnan s cc := by
  cases sub <;> rfl

@[simp] theorem addend_snan (sub s : Bool) (cc : Nat) : addend sub (.snan s cc) = .snan s cc := by
  cases sub <;> rfl

section
variable {F : Format} {frt fra frb : FReg} {rc : Bool} {i : Instr} {s : State} {a b : Dfp}

/-- An arithmetic instruction runs with the action its table gives for its operands (R221). -/
theorem exec_arith {i64 i128 : Instr} {table : Format → Dfp → Dfp → Action}
    (h64 : effectOf i64 s =
      arithEffect .dfp64 frt rc s.fpscr (table .dfp64 (sourceDfp .dfp64 s fra) (sourceDfp .dfp64 s frb)))
    (h128 : effectOf i128 s =
      arithEffect .dfp128 frt rc s.fpscr (table .dfp128 (sourceDfp .dfp128 s fra) (sourceDfp .dfp128 s frb)))
    (hr : frt ∈ i128.pairFields) (h : (F = .dfp64 ∧ i = i64) ∨ (F = .dfp128 ∧ i = i128)) (hwf : i.wellFormed = true)
    (ha : sourceDfp F s fra = a) (hb : sourceDfp F s frb = b) :
    (F = .dfp128 → frt.isEven = true) ∧
      exec i s = .next (finish (arithEffect F frt rc s.fpscr (table F a b)) s) := by
  refine ⟨even_of_format h hwf hr, ?_⟩
  rw [exec_wellFormed hwf, ← ha, ← hb]
  rcases h with ⟨rfl, rfl⟩ | ⟨rfl, rfl⟩
  · rw [h64]
  · rw [h128]

theorem exec_add (h : (F = .dfp64 ∧ i = .dadd frt fra frb rc) ∨ (F = .dfp128 ∧ i = .daddq frt fra frb rc))
    (hwf : i.wellFormed = true) (ha : sourceDfp F s fra = a) (hb : sourceDfp F s frb = b) :
    (F = .dfp128 → frt.isEven = true) ∧
      exec i s = .next (finish (arithEffect F frt rc s.fpscr (addTable (drnMode s.fpscr) a (addend false b))) s) :=
  exec_arith (table := fun _ a b => addTable (drnMode s.fpscr) a (addend false b)) rfl rfl List.mem_cons_self h hwf ha hb

theorem exec_sub (h : (F = .dfp64 ∧ i = .dsub frt fra frb rc) ∨ (F = .dfp128 ∧ i = .dsubq frt fra frb rc))
    (hwf : i.wellFormed = true) (ha : sourceDfp F s fra = a) (hb : sourceDfp F s frb = b) :
    (F = .dfp128 → frt.isEven = true) ∧
      exec i s = .next (finish (arithEffect F frt rc s.fpscr (addTable (drnMode s.fpscr) a (addend true b))) s) :=
  exec_arith (table := fun _ a b => addTable (drnMode s.fpscr) a (addend true b)) rfl rfl List.mem_cons_self h hwf ha hb

/-- Add and Subtract. -/
theorem exec_sum {sub : Bool} (h : (F = .dfp64 ∧ sub = false ∧ i = .dadd frt fra frb rc) ∨
      (F = .dfp128 ∧ sub = false ∧ i = .daddq frt fra frb rc) ∨ (F = .dfp64 ∧ sub = true ∧ i = .dsub frt fra frb rc) ∨
      (F = .dfp128 ∧ sub = true ∧ i = .dsubq frt fra frb rc)) (hwf : i.wellFormed = true) (ha : sourceDfp F s fra = a)
    (hb : sourceDfp F s frb = b) :
    (F = .dfp128 → frt.isEven = true) ∧
      exec i s = .next (finish (arithEffect F frt rc s.fpscr (addTable (drnMode s.fpscr) a (addend sub b))) s) := by
  rcases h with ⟨hF, rfl, hi⟩ | ⟨hF, rfl, hi⟩ | ⟨hF, rfl, hi⟩ | ⟨hF, rfl, hi⟩
  · exact exec_add (.inl ⟨hF, hi⟩) hwf ha hb
  · exact exec_add (.inr ⟨hF, hi⟩) hwf ha hb
  · exact exec_sub (.inl ⟨hF, hi⟩) hwf ha hb
  · exact exec_sub (.inr ⟨hF, hi⟩) hwf ha hb

theorem exec_mul (h : (F = .dfp64 ∧ i = .dmul frt fra frb rc) ∨ (F = .dfp128 ∧ i = .dmulq frt fra frb rc))
    (hwf : i.wellFormed = true) (ha : sourceDfp F s fra = a) (hb : sourceDfp F s frb = b) :
    (F = .dfp128 → frt.isEven = true) ∧
      exec i s = .next (finish (arithEffect F frt rc s.fpscr (mulTable F a b)) s) :=
  exec_arith (table := mulTable) rfl rfl List.mem_cons_self h hwf ha hb

theorem exec_div (h : (F = .dfp64 ∧ i = .ddiv frt fra frb rc) ∨ (F = .dfp128 ∧ i = .ddivq frt fra frb rc))
    (hwf : i.wellFormed = true) (ha : sourceDfp F s fra = a) (hb : sourceDfp F s frb = b) :
    (F = .dfp128 → frt.isEven = true) ∧
      exec i s = .next (finish (arithEffect F frt rc s.fpscr (divTable F a b)) s) :=
  exec_arith (table := divTable) rfl rfl List.mem_cons_self h hwf ha hb

end

section
variable {F : Format} {frt fra frb : FReg} {rc : Bool}

theorem not_dfp32 {p q : Prop} (h : (F = .dfp64 ∧ p) ∨ (F = .dfp128 ∧ q)) : F ≠ .dfp32 := by
  rcases h with ⟨rfl, -⟩ | ⟨rfl, -⟩ <;> decide

/-! ### Values of operands -/

theorem finValue_eq (s : Bool) (c : Nat) (e : Int) : finValue s c e = (if s = true then -1 else 1) * finValue false c e := by
  rw [finValue_false, finValue, mul_assoc]

theorem finValue_pos {c : Nat} (hc : c ≠ 0) (e : Int) : 0 < finValue false c e := by
  rw [finValue_false]
  exact mul_pos (by exact_mod_cast Nat.pos_of_ne_zero hc) (ten_zpow_pos e)

theorem finValue_ne_zero_iff (s : Bool) (c : Nat) (e : Int) : finValue s c e ≠ 0 ↔ c ≠ 0 := by
  rw [finValue_eq, finValue_false]
  cases s <;> simp [(ten_zpow_pos e).ne']

theorem abs_finValue (s : Bool) (c : Nat) (e : Int) : |finValue s c e| = finValue false c e := by
  have hnn : 0 ≤ finValue false c e := by
    rw [finValue_false]
    exact mul_nonneg c.cast_nonneg (ten_zpow_pos e).le
  rw [finValue_eq]
  cases s
  · simp [abs_of_nonneg hnn]
  · simp [abs_of_nonneg hnn]

/-- A nonzero number of a format lies between Dmin and ten to the Xmax + p. -/
theorem finValue_bounds {s : Bool} {c : Nat} {e : Int} (hfits : (Dfp.fin s c e).fits F = true) (hc : c ≠ 0) :
    (10 : ℚ) ^ F.xmin ≤ finValue false c e ∧ finValue false c e < (10 : ℚ) ^ (F.xmax + F.prec) := by
  obtain ⟨hlt, hlo, hhi⟩ := fits_fin_iff.mp hfits
  have hpos := Nat.pos_of_ne_zero hc
  refine ⟨le_of_not_gt fun h => ?_, (finValue_lt_zpow_iff hpos e _).mpr ?_⟩
  · have h1 : (1 : ℚ) ≤ c := by exact_mod_cast hpos
    have h2 := ten_zpow_le_iff.mpr hlo
    rw [finValue_false] at h
    linarith [mul_le_mul_of_nonneg_right h1 (ten_zpow_pos e).le]
  · have := (digits_le_iff c F.prec).mpr hlt
    omega

/-- The wrap adjustment of arithmetic brings every result of two operands into the range of the format (R196). -/
theorem arithAlpha_bounds (hF : F ≠ .dfp32) : F.prec - F.xmin ≤ arithAlpha F ∧ F.xmax + F.prec ≤ -F.xmin ∧
    F.xmin ≤ F.xmax - arithAlpha F ∧ F.xmin + arithAlpha F ≤ F.xmax := by
  cases F
  · exact absurd rfl hF
  · decide
  · decide

/-- A value that two operands can give is wrapped to a value of the format. -/
theorem wrapFits_arith (hF : F ≠ .dfp32) {q : ℚ} (hlow : (10 : ℚ) ^ (2 * F.xmin) ≤ q)
    (hhigh : q < (10 : ℚ) ^ (F.xmax + F.prec - F.xmin)) : WrapFits F F (arithAlpha F) q := by
  obtain ⟨h1, h2, h3, h4⟩ := arithAlpha_bounds hF
  have hp := F.prec_pos
  exact ⟨le_rfl, h3, h4, (ten_zpow_le_iff.mpr (by omega)).trans hlow, hhigh.trans_le (ten_zpow_le_iff.mpr (by omega))⟩

/-! ### The actions on finite operands (R222, R227, R230) -/

/-- The action rounds the nonzero number x, with an ideal exponent. -/
def Action.Rounds (F : Format) (act : Action) (x : ℚ) (ideal : Int) : Prop :=
  ∃ v : Mag, act = .rounded (decide (x < 0)) v ideal ∧ 0 < v.num ∧ 0 < v.den ∧ v.value = |x| ∧
    WrapFits F F (arithAlpha F) |x|

theorem signed_eq (s : Bool) (n : Nat) : signed s n = (if s = true then -1 else 1) * (n : Int) := by
  cases s <;> simp [signed]

/-- A number in units of ten to a lower exponent. -/
theorem signed_value (s : Bool) (c : Nat) {e m : Int} (h : m ≤ e) :
    ((signed s (c * 10 ^ (e - m).toNat) : Int) : ℚ) * (10 : ℚ) ^ m = finValue s c e := by
  have hunits := (finValue_eq_iff h).mpr (rfl : c * 10 ^ (e - m).toNat = c * 10 ^ (e - m).toNat)
  rw [finValue_eq, hunits, finValue_false, signed_eq]
  cases s <;> push_cast <;> simp

theorem sumUnits_value (sa sb : Bool) (ca cb : Nat) (ea eb : Int) :
    ((sumUnits sa ca ea sb cb eb : Int) : ℚ) * (10 : ℚ) ^ (min ea eb) = finValue sa ca ea + finValue sb cb eb := by
  rw [sumUnits, Int.cast_add, add_mul, signed_value _ _ (min_le_left _ _), signed_value _ _ (min_le_right _ _)]

theorem addFinite_rounds {sa sb : Bool} {ca cb : Nat} {ea eb : Int} (mode : RMode) (hF : F ≠ .dfp32)
    (ha : (Dfp.fin sa ca ea).fits F = true) (hb : (Dfp.fin sb cb eb).fits F = true)
    (hx : finValue sa ca ea + finValue sb cb eb ≠ 0) :
    (addFinite mode sa ca ea sb cb eb).Rounds F (finValue sa ca ea + finValue sb cb eb) (min ea eb) := by
  obtain ⟨-, hb1, -, -⟩ := arithAlpha_bounds hF
  obtain ⟨hca, hea, hea'⟩ := fits_fin_iff.mp ha
  obtain ⟨hcb, heb, heb'⟩ := fits_fin_iff.mp hb
  have hp := F.prec_pos
  have hm := F.xmin_lt_xmax
  have hupper : ∀ {s : Bool} {c : Nat} {e : Int}, (Dfp.fin s c e).fits F = true →
      |finValue s c e| < (10 : ℚ) ^ (F.xmax + F.prec) := by
    intro s c e hfits
    rw [abs_finValue]
    rcases eq_or_ne c 0 with rfl | hc
    · rw [finValue_false, Nat.cast_zero, zero_mul]
      exact ten_zpow_pos _
    · exact (finValue_bounds hfits hc).2
  have hval := sumUnits_value sa sb ca cb ea eb
  have hpos := ten_zpow_pos (min ea eb)
  have hunits : sumUnits sa ca ea sb cb eb ≠ 0 := by
    intro h
    rw [h, Int.cast_zero, zero_mul] at hval
    exact hx hval.symm
  have hneg : (sumUnits sa ca ea sb cb eb < 0) ↔ finValue sa ca ea + finValue sb cb eb < 0 := by
    rw [← hval, ← Int.cast_lt_zero (R := ℚ)]
    exact ⟨fun h => mul_neg_of_neg_of_pos h hpos, fun h => neg_of_mul_neg_left h hpos.le⟩
  have habs : (Mag.value { num := (sumUnits sa ca ea sb cb eb).natAbs, den := 1, exp := min ea eb }) =
      |finValue sa ca ea + finValue sb cb eb| := by
    rw [← hval, abs_mul, abs_of_pos hpos, Mag.value, Nat.cast_natAbs, Int.cast_abs, Nat.cast_one, div_one]
  refine ⟨{ num := (sumUnits sa ca ea sb cb eb).natAbs, den := 1, exp := min ea eb }, ?_, Int.natAbs_pos.mpr hunits,
    Nat.one_pos, habs, wrapFits_arith hF ?_ ?_⟩
  · unfold addFinite
    simp only [hunits, if_false, hneg]
  · have h1 : (1 : ℚ) ≤ ((sumUnits sa ca ea sb cb eb).natAbs : ℚ) := by
      exact_mod_cast Int.natAbs_pos.mpr hunits
    have h2 := ten_zpow_le_iff.mpr (show 2 * F.xmin ≤ min ea eb by omega)
    rw [← habs, Mag.value, Nat.cast_one, div_one]
    linarith [mul_le_mul_of_nonneg_right h1 hpos.le]
  · have h10 := ten_zpow_add 1 (F.xmax + F.prec)
    rw [zpow_one] at h10
    have hle := ten_zpow_le_iff.mpr (show 1 + (F.xmax + F.prec) ≤ F.xmax + F.prec - F.xmin by omega)
    linarith [abs_add_le (finValue sa ca ea) (finValue sb cb eb), hupper ha, hupper hb, ten_zpow_pos (F.xmax + F.prec)]

/-- The sign of a product or quotient of nonzero numbers. -/
theorem sign_mul_lt_zero {a b : ℚ} (ha : 0 < a) (hb : 0 < b) (sa sb : Bool) :
    ((if sa = true then -1 else 1) * a * ((if sb = true then -1 else 1) * b) < 0) ↔ (sa ^^ sb) = true := by
  have hab := mul_pos ha hb
  cases sa <;> cases sb <;> simp <;> linarith

theorem mulTable_rounds {sa sb : Bool} {ca cb : Nat} {ea eb : Int} (hF : F ≠ .dfp32)
    (ha : (Dfp.fin sa ca ea).fits F = true) (hb : (Dfp.fin sb cb eb).fits F = true) (hca : ca ≠ 0) (hcb : cb ≠ 0) :
    (mulTable F (.fin sa ca ea) (.fin sb cb eb)).Rounds F (finValue sa ca ea * finValue sb cb eb) (ea + eb) := by
  obtain ⟨-, hb1, -, -⟩ := arithAlpha_bounds hF
  obtain ⟨halo, hahi⟩ := finValue_bounds ha hca
  obtain ⟨hblo, hbhi⟩ := finValue_bounds hb hcb
  have hpa := finValue_pos hca ea
  have hpb := finValue_pos hcb eb
  have habs : |finValue sa ca ea * finValue sb cb eb| = finValue false ca ea * finValue false cb eb := by
    rw [abs_mul, abs_finValue, abs_finValue]
  have hneg : (finValue sa ca ea * finValue sb cb eb < 0) ↔ (sa ^^ sb) = true := by
    rw [finValue_eq sa, finValue_eq sb]
    exact sign_mul_lt_zero hpa hpb sa sb
  refine ⟨{ num := ca * cb, den := 1, exp := ea + eb }, ?_, Nat.mul_pos (Nat.pos_of_ne_zero hca) (Nat.pos_of_ne_zero hcb),
    Nat.one_pos, ?_, wrapFits_arith hF ?_ ?_⟩
  · have hdec : decide (finValue sa ca ea * finValue sb cb eb < 0) = (sa ^^ sb) := by
      rwa [Bool.eq_iff_iff, decide_eq_true_iff]
    rw [hdec]
    simp only [mulTable, hca, hcb, or_self, if_false]
  · rw [habs, Mag.value, finValue_false, finValue_false, ten_zpow_add]
    push_cast
    ring
  · rw [habs, two_mul, ten_zpow_add]
    exact mul_le_mul halo hblo (ten_zpow_pos _).le hpa.le
  · rw [habs]
    calc finValue false ca ea * finValue false cb eb
        < (10 : ℚ) ^ (F.xmax + F.prec) * (10 : ℚ) ^ (F.xmax + F.prec) := mul_lt_mul'' hahi hbhi hpa.le hpb.le
      _ = (10 : ℚ) ^ (F.xmax + F.prec + (F.xmax + F.prec)) := (ten_zpow_add _ _).symm
      _ ≤ (10 : ℚ) ^ (F.xmax + F.prec - F.xmin) := ten_zpow_le_iff.mpr (by omega)

theorem divTable_rounds {sa sb : Bool} {ca cb : Nat} {ea eb : Int} (hF : F ≠ .dfp32)
    (ha : (Dfp.fin sa ca ea).fits F = true) (hb : (Dfp.fin sb cb eb).fits F = true) (hca : ca ≠ 0) (hcb : cb ≠ 0) :
    (divTable F (.fin sa ca ea) (.fin sb cb eb)).Rounds F (finValue sa ca ea / finValue sb cb eb) (ea - eb) := by
  obtain ⟨-, hb1, -, -⟩ := arithAlpha_bounds hF
  obtain ⟨halo, hahi⟩ := finValue_bounds ha hca
  obtain ⟨hblo, hbhi⟩ := finValue_bounds hb hcb
  have hpa := finValue_pos hca ea
  have hpb := finValue_pos hcb eb
  have habs : |finValue sa ca ea / finValue sb cb eb| = finValue false ca ea / finValue false cb eb := by
    rw [abs_div, abs_finValue, abs_finValue]
  have hneg : (finValue sa ca ea / finValue sb cb eb < 0) ↔ (sa ^^ sb) = true := by
    rw [finValue_eq sa, finValue_eq sb, div_eq_mul_inv, mul_inv,
      show ((if sb = true then -1 else 1 : ℚ))⁻¹ = if sb = true then -1 else 1 by cases sb <;> norm_num]
    exact sign_mul_lt_zero hpa (inv_pos.mpr hpb) sa sb
  refine ⟨{ num := ca, den := cb, exp := ea - eb }, ?_, Nat.pos_of_ne_zero hca, Nat.pos_of_ne_zero hcb, ?_,
    wrapFits_arith hF ?_ ?_⟩
  · have hdec : decide (finValue sa ca ea / finValue sb cb eb < 0) = (sa ^^ sb) := by
      rwa [Bool.eq_iff_iff, decide_eq_true_iff]
    rw [hdec]
    simp only [divTable, hca, hcb, and_self, if_false]
  · rw [habs, Mag.value, finValue_false, finValue_false, zpow_sub₀ (by norm_num)]
    exact (mul_div_mul_comm _ _ _ _).symm
  · rw [habs, le_div_iff₀ hpb]
    calc (10 : ℚ) ^ (2 * F.xmin) * finValue false cb eb
        ≤ (10 : ℚ) ^ (2 * F.xmin) * (10 : ℚ) ^ (F.xmax + F.prec) := mul_le_mul_of_nonneg_left hbhi.le (ten_zpow_pos _).le
      _ = (10 : ℚ) ^ (2 * F.xmin + (F.xmax + F.prec)) := (ten_zpow_add _ _).symm
      _ ≤ (10 : ℚ) ^ F.xmin := ten_zpow_le_iff.mpr (by omega)
      _ ≤ finValue false ca ea := halo
  · rw [habs, div_lt_iff₀ hpb]
    calc finValue false ca ea
        < (10 : ℚ) ^ (F.xmax + F.prec - F.xmin + F.xmin) := by rwa [Int.sub_add_cancel]
      _ = (10 : ℚ) ^ (F.xmax + F.prec - F.xmin) * (10 : ℚ) ^ F.xmin := ten_zpow_add _ _
      _ ≤ (10 : ℚ) ^ (F.xmax + F.prec - F.xmin) * finValue false cb eb :=
        mul_le_mul_of_nonneg_left hblo (ten_zpow_pos _).le

/-! ### The results of the actions -/

variable {s : State}

/-- The writes of a delivered result are read back in its format. -/
theorem deliveredEffect_shown (heven : F = .dfp128 → frt.isEven = true) {r : Delivered} (hr : r.Reports)
    (hfits : r.d.fits F = true) : r.Shown F F frt s (finish (deliveredEffect F frt rc r) s) :=
  shown_of_commit s hr (by rw [Delivered.formatIn, ite_self]; exact writesDfp_dfpWrites heven hfits) rfl

/-- A rounded action delivers its value. -/
theorem arithEffect_delivery (heven : F = .dfp128 → frt.isEven = true) {act : Action} {x : ℚ} {ideal : Int}
    (h : act.Rounds F x ideal) {sg : Bool} (hsg : sg = true ↔ x < 0) :
    Delivery F F (arithAlpha F) ideal frt sg |x| s (finish (arithEffect F frt rc s.fpscr act) s) := by
  obtain ⟨v, rfl, hn, hd, hv, hwrap⟩ := h
  obtain rfl : sg = decide (x < 0) := by rw [Bool.eq_iff_iff, decide_eq_true_iff]; exact hsg
  rw [← hv] at hwrap ⊢
  have hfits := deliver_fits (sg := decide (x < 0)) (ideal := ideal) (mode := drnMode s.fpscr) hn hd hwrap s.fpscr
  rw [Delivered.formatIn, ite_self] at hfits
  exact delivery_of_shown hn hd (deliveredEffect_shown heven (deliver_reports ..) hfits)

/-- A rounded action whose value has a form at the ideal exponent delivers that form. -/
theorem arithEffect_rounded_exact (heven : F = .dfp128 → frt.isEven = true) {v : Mag} (hn : 0 < v.num) (hd : 0 < v.den)
    {c : Nat} {e : Int} (hfits : ∀ sg, (Dfp.fin sg c e).fits F = true) (hv : v.value = finValue false c e)
    (hue : bitAt s.fpscr 58 = false) (sg : Bool) :
    ExactResult F frt (.fin sg c e) s (finish (arithEffect F frt rc s.fpscr (.rounded sg v e)) s) := by
  obtain ⟨hc, hlo, hhi⟩ := fits_fin_iff.mp (hfits sg)
  obtain ⟨hd', hfi, hfr, hexc, hforce⟩ :=
    deliver_exact hn hd hc hlo hhi hv hue F.xmax sg (drnMode s.fpscr) (arithAlpha F)
  exact (deliveredEffect_shown heven (deliver_reports ..) (hd' ▸ hfits sg)).exactResult hd' hfi hfr hexc hforce

/-- An exact action delivers its value. -/
theorem arithEffect_exact (heven : F = .dfp128 → frt.isEven = true) {act : Action} {d : Dfp} (h : act = .exact d)
    (hd : d.fits F = true) : ExactResult F frt d s (finish (arithEffect F frt rc s.fpscr act) s) := by
  rw [h]
  exact exactEffect_result heven hd rc

/-- An invalid action delivers its quiet NaN or nothing. -/
theorem arithEffect_invalid (heven : F = .dfp128 → frt.isEven = true) {act : Action} {x : Exc} {sg : Bool} {cc : Nat}
    (h : act = .invalid [x] (.qnan sg cc)) (hk : x.kind = .invalid) (hd : (Dfp.qnan sg cc).fits F = true) :
    InvalidResult F frt (.qnan sg cc) x.bit s (finish (arithEffect F frt rc s.fpscr act) s) := by
  rw [h]
  exact invalidEffect_result heven hk hd rc

end

/-- A clamped exponent is in the range of the format. -/
theorem zero_clamp_fits (F : Format) (sg : Bool) (e : Int) : (Dfp.fin sg 0 (clamp e F.xmin F.xmax)).fits F = true := by
  have := F.xmin_lt_xmax
  refine fits_fin_iff.mpr ⟨by positivity, le_max_left _ _, ?_⟩
  unfold clamp
  omega

/-- A family of Add and Subtract in the form of an operation is one in the form of its instructions. -/
theorem sum_family {F : Format} {sub : Bool} {op : FReg → FReg → FReg → Bool → Instr}
    (h : (F = .dfp64 ∧ op = .dadd ∧ sub = false) ∨ (F = .dfp128 ∧ op = .daddq ∧ sub = false) ∨
      (F = .dfp64 ∧ op = .dsub ∧ sub = true) ∨ (F = .dfp128 ∧ op = .dsubq ∧ sub = true)) (frt fra frb : FReg) (rc : Bool) :
    (F = .dfp64 ∧ sub = false ∧ op frt fra frb rc = .dadd frt fra frb rc) ∨
      (F = .dfp128 ∧ sub = false ∧ op frt fra frb rc = .daddq frt fra frb rc) ∨
      (F = .dfp64 ∧ sub = true ∧ op frt fra frb rc = .dsub frt fra frb rc) ∨
      (F = .dfp128 ∧ sub = true ∧ op frt fra frb rc = .dsubq frt fra frb rc) := by
  rcases h with ⟨hF, rfl, hs⟩ | ⟨hF, rfl, hs⟩ | ⟨hF, rfl, hs⟩ | ⟨hF, rfl, hs⟩
  · exact .inl ⟨hF, hs, rfl⟩
  · exact .inr (.inl ⟨hF, hs, rfl⟩)
  · exact .inr (.inr (.inl ⟨hF, hs, rfl⟩))
  · exact .inr (.inr (.inr ⟨hF, hs, rfl⟩))

theorem op_family {α : Type} {F : Format} {op op64 op128 : α} (h : (F = .dfp64 ∧ op = op64) ∨ (F = .dfp128 ∧ op = op128))
    (f : α → Instr) : (F = .dfp64 ∧ f op = f op64) ∨ (F = .dfp128 ∧ f op = f op128) :=
  h.imp (And.imp_right (congrArg f)) (And.imp_right (congrArg f))

/-! ### The statements -/

/-- Settles O31: the sum in units of the smaller exponent is rounded, and it has a form there. -/
theorem exactSum : Obligations.ExactSum := by
  intro F sub op s frt fra frb rc sa sb ca cb ea eb x hop hwf ha hb hx hx0 hlt hue
  obtain ⟨heven, hexec⟩ := exec_sum (sum_family hop frt fra frb rc) hwf ha hb
  obtain ⟨-, halo, hahi⟩ := fits_fin_iff.mp (ha ▸ sourceDfp_fits F s fra)
  obtain ⟨-, hblo, hbhi⟩ := fits_fin_iff.mp (hb ▸ sourceDfp_fits F s frb)
  have hunits : sumUnits sa ca ea (sb ^^ sub) cb eb = x := by rw [sumUnits, signed_eq, signed_eq, hx]
  refine ⟨_, hexec, ?_⟩
  simp only [addend_fin, addTable, addFinite, hunits, if_neg hx0]
  refine arithEffect_rounded_exact heven (Int.natAbs_pos.mpr hx0) Nat.one_pos
    (fun sg => fits_fin_iff.mpr ⟨hlt, by omega, by omega⟩) ?_ hue _
  rw [Mag.value, finValue_false, Nat.cast_one, div_one]

/-- Settles O32: the sum in units of the smaller exponent is 0. -/
theorem zeroSum : Obligations.ZeroSum := by
  intro F sub op s frt fra frb rc sa sb ca cb ea eb hop hwf ha hb heq hsign
  obtain ⟨heven, hexec⟩ := exec_sum (sum_family hop frt fra frb rc) hwf ha hb
  obtain ⟨-, halo, hahi⟩ := fits_fin_iff.mp (ha ▸ sourceDfp_fits F s fra)
  obtain ⟨-, hblo, hbhi⟩ := fits_fin_iff.mp (hb ▸ sourceDfp_fits F s frb)
  have hunits : sumUnits sa ca ea (sb ^^ sub) cb eb = 0 := by
    rw [sumUnits, ← heq]
    rcases hsign with rfl | hne
    · cases sa <;> cases (sb ^^ sub) <;> simp [signed]
    · rw [Bool.eq_not_of_ne hne]
      cases (sb ^^ sub) <;> simp [signed]
  refine ⟨_, hexec, arithEffect_exact heven ?_ (fits_fin_iff.mpr ⟨by positivity, by omega, by omega⟩)⟩
  simp only [addend_fin, addTable, addFinite, hunits, if_true]

/-- Settles O33: the product has a form at the ideal exponent, or is a zero. -/
theorem exactProduct : Obligations.ExactProduct := by
  intro F op s frt fra frb rc sa sb ca cb ea eb hop hwf ha hb
  obtain ⟨heven, hexec⟩ := exec_mul (op_family hop (· frt fra frb rc)) hwf ha hb
  refine ⟨fun hc hlt hlo hhi hue => ⟨_, hexec, ?_⟩, fun hc => ⟨_, hexec, ?_⟩⟩
  · obtain ⟨hca, hcb⟩ := mul_ne_zero_iff.mp hc
    simp only [mulTable, hca, hcb, or_self, if_false]
    refine arithEffect_rounded_exact heven (Nat.pos_of_ne_zero hc) Nat.one_pos
      (fun sg => fits_fin_iff.mpr ⟨hlt, hlo, hhi⟩) ?_ hue _
    rw [Mag.value, finValue_false, Nat.cast_one, div_one]
  · refine arithEffect_exact heven ?_ (zero_clamp_fits F _ _)
    simp only [mulTable, if_pos (Nat.mul_eq_zero.mp hc)]
    rfl

/-- Settles O34: the integer quotient has a form at the ideal exponent, or is a zero. -/
theorem exactQuotient : Obligations.ExactQuotient := by
  intro F op s frt fra frb rc sa sb cb q ea eb hop hwf ha hb hcb
  obtain ⟨heven, hexec⟩ := exec_div (op_family hop (· frt fra frb rc)) hwf ha hb
  obtain ⟨hlt, -⟩ := fits_fin_iff.mp (ha ▸ sourceDfp_fits F s fra)
  refine ⟨fun hq hlo hhi hue => ⟨_, hexec, ?_⟩, fun hq => ⟨_, hexec, ?_⟩⟩
  · have hca : q * cb ≠ 0 := mul_ne_zero hq hcb
    simp only [divTable, hca, hcb, and_self, if_false]
    refine arithEffect_rounded_exact heven (Nat.pos_of_ne_zero hca) (Nat.pos_of_ne_zero hcb)
      (fun sg => fits_fin_iff.mpr ⟨(Nat.le_mul_of_pos_right q (Nat.pos_of_ne_zero hcb)).trans_lt hlt, hlo, hhi⟩) ?_ hue _
    rw [Mag.value, finValue_false, Nat.cast_mul, mul_div_cancel_right₀ _ (by exact_mod_cast hcb)]
  · subst hq
    refine arithEffect_exact heven ?_ (zero_clamp_fits F _ _)
    simp only [divTable, hcb, Nat.zero_mul, and_false, if_false, if_true]
    rfl

/-- Settles O35: each table rounds the exact value, and a rounded action delivers it. -/
theorem arithmeticRounds : Obligations.ArithmeticRounds := by
  intro F s frt fra frb rc i sa sb sg ca cb ea eb ideal alpha x hop halpha hwf ha hb hx hsg
  have hF : F ≠ .dfp32 := not_dfp32 halpha
  obtain rfl : alpha = arithAlpha F := by rcases halpha with ⟨rfl, rfl⟩ | ⟨rfl, rfl⟩ <;> rfl
  have hafits : (Dfp.fin sa ca ea).fits F = true := ha ▸ sourceDfp_fits F s fra
  have hbfits : (Dfp.fin sb cb eb).fits F = true := hb ▸ sourceDfp_fits F s frb
  rcases hop with ⟨rfl, rfl, hfam⟩ | ⟨rfl, rfl, hfam⟩ | ⟨rfl, rfl, hfam⟩ | ⟨rfl, hcb, rfl, hfam⟩
  · obtain ⟨heven, hexec⟩ := exec_add hfam hwf ha hb
    exact ⟨_, hexec, arithEffect_delivery heven (addFinite_rounds _ hF hafits hbfits hx) hsg⟩
  · obtain ⟨heven, hexec⟩ := exec_sub hfam hwf ha hb
    have hsub : finValue sa ca ea - finValue sb cb eb = finValue sa ca ea + finValue (!sb) cb eb := by
      rw [sub_eq_add_neg, finValue_eq sb, finValue_eq (!sb)]
      cases sb <;> simp
    rw [hsub] at hx hsg ⊢
    exact ⟨_, hexec, arithEffect_delivery heven (addFinite_rounds _ hF hafits (sb := !sb) hbfits hx) hsg⟩
  · obtain ⟨heven, hexec⟩ := exec_mul hfam hwf ha hb
    obtain ⟨hca, hcb⟩ := mul_ne_zero_iff.mp hx
    exact ⟨_, hexec, arithEffect_delivery heven (mulTable_rounds hF hafits hbfits ((finValue_ne_zero_iff _ _ _).mp hca)
      ((finValue_ne_zero_iff _ _ _).mp hcb)) hsg⟩
  · obtain ⟨heven, hexec⟩ := exec_div hfam hwf ha hb
    obtain ⟨hca, -⟩ := div_ne_zero_iff.mp hx
    exact ⟨_, hexec, arithEffect_delivery heven
      (divTable_rounds hF hafits hbfits ((finValue_ne_zero_iff _ _ _).mp hca) hcb) hsg⟩

/-! ### Zero divide, infinities and NaNs -/

/-- Settles O36: the action is a zero divide, suppressed or with a default infinity. -/
theorem zeroDivideActions : Obligations.ZeroDivideActions := by
  intro F op s frt fra frb rc sa sb ca ea eb hop hwf ha hca hb
  obtain ⟨heven, hexec⟩ := exec_div (op_family hop (· frt fra frb rc)) hwf ha hb
  have hact : divTable F (.fin sa ca ea) (.fin sb 0 eb) = .zeroDivide (sa ^^ sb) := by simp [divTable, hca]
  rw [hact] at hexec
  refine ⟨_, hexec, ?_⟩
  simp only [arithEffect, zeroDivideEffect]
  cases hze : enabled s.fpscr .zeroDivide
  · rw [if_neg Bool.false_ne_true]
    have hc : (defaultEffect F frt rc [.zx] (.inf (sa ^^ sb) 0)).commit =
        some { exc := [.zx], fi := some false, fr := some false, fprf := some (fprfOf F (.inf (sa ^^ sb) 0)) } := rfl
    refine ⟨?_, roundingFlagsClear_finish hc rfl rfl, fun h => absurd (hze.symm.trans h) Bool.false_ne_true, fun _ =>
      ⟨sourceDfp_finish (writesDfp_dfpWrites heven (fits_inf_iff.mpr (by positivity))), ?_, ?_⟩⟩
    · rw [finish_fpscr]
      exact bitAt_fpscrAfter_exception (x := .zx) _ List.mem_cons_self
    · rw [fprfField_finish hc rfl rfl]
      cases (sa ^^ sb) <;> rfl
    · exact finish_completed_of_disabled (.inl fun x hx => List.mem_singleton.mp hx ▸ hze)
  · rw [if_pos rfl]
    have hc : (suppressedEffect [.zx] rc).commit = some { exc := [.zx], fi := some false, fr := some false } := rfl
    have hraised : (suppressedEffect [.zx] rc).raised s.fpscr ≠ [] := fun hnil =>
      Bool.false_ne_true (((raised_eq_nil_iff _ _).mp hnil .zx List.mem_cons_self).symm.trans hze)
    refine ⟨?_, roundingFlagsClear_finish hc rfl rfl, fun _ => ⟨finish_fpr _ _, fprfField_finish_kept hc rfl rfl,
      bitAt_finish_fex (x := .zx) List.mem_cons_self hze, fun hmode => ?_,
      fun hmode => finish_completed_of_disabled (.inr hmode)⟩, fun h => absurd (h.symm.trans hze) Bool.false_ne_true⟩
    · rw [finish_fpscr]
      exact bitAt_fpscrAfter_exception (x := .zx) _ List.mem_cons_self
    · rw [finish_precise hmode hraised]
      exact ⟨rfl, applyEffect_pc _ _⟩

theorem inf_fits (F : Format) (sg : Bool) : (Dfp.inf sg 0).fits F = true := fits_inf_iff.mpr (by positivity)

/-- Settles O37: the rows of the tables with an infinity, and zero over zero. -/
theorem infinityArithmetic : Obligations.InfinityArithmetic := by
  intro F s frt fra frb rc sub i hwf
  refine ⟨fun hfam sa sb ca cb e => ⟨fun ha hb hs => ?_, fun ha hb hs => ?_, fun ha hb => ?_, fun ha hb => ?_⟩,
    fun hfam sa sb ca cb e => ⟨fun ha hb => ?_, fun h => ?_, fun h => ?_⟩,
    fun hfam sa sb ca cb e e' => ⟨fun ha hb => ?_, fun ha hb => ?_, fun ha hb => ?_, fun ha hb => ?_⟩⟩
  · obtain ⟨heven, hexec⟩ := exec_sum hfam hwf ha hb
    exact ⟨_, hexec, arithEffect_invalid (x := .vxisi) heven (by simp [addTable, hs, defaultNaN]) rfl (defaultNaN_fits F)⟩
  · obtain ⟨heven, hexec⟩ := exec_sum hfam hwf ha hb
    exact ⟨_, hexec, arithEffect_exact heven (by simp [addTable, hs]) (inf_fits F _)⟩
  · obtain ⟨heven, hexec⟩ := exec_sum hfam hwf ha hb
    exact ⟨_, hexec, arithEffect_exact heven (by simp [addTable]) (inf_fits F _)⟩
  · obtain ⟨heven, hexec⟩ := exec_sum hfam hwf ha hb
    exact ⟨_, hexec, arithEffect_exact heven (by simp [addTable]) (inf_fits F _)⟩
  · obtain ⟨heven, hexec⟩ := exec_mul hfam hwf ha hb
    exact ⟨_, hexec, arithEffect_exact heven rfl (inf_fits F _)⟩
  · rcases h with ⟨ha, hb, hc⟩ | ⟨ha, hc, hb⟩
    · obtain ⟨heven, hexec⟩ := exec_mul hfam hwf ha hb
      exact ⟨_, hexec, arithEffect_exact heven (if_neg hc) (inf_fits F _)⟩
    · obtain ⟨heven, hexec⟩ := exec_mul hfam hwf ha hb
      exact ⟨_, hexec, arithEffect_exact heven (if_neg hc) (inf_fits F _)⟩
  · rcases h with ⟨ha, hb⟩ | ⟨ha, hb⟩
    · obtain ⟨heven, hexec⟩ := exec_mul hfam hwf ha hb
      exact ⟨_, hexec, arithEffect_invalid (x := .vximz) heven rfl rfl (defaultNaN_fits F)⟩
    · obtain ⟨heven, hexec⟩ := exec_mul hfam hwf ha hb
      exact ⟨_, hexec, arithEffect_invalid (x := .vximz) heven rfl rfl (defaultNaN_fits F)⟩
  · obtain ⟨heven, hexec⟩ := exec_div hfam hwf ha hb
    exact ⟨_, hexec, arithEffect_invalid (x := .vxidi) heven rfl rfl (defaultNaN_fits F)⟩
  · obtain ⟨heven, hexec⟩ := exec_div hfam hwf ha hb
    exact ⟨_, hexec, arithEffect_invalid (x := .vxzdz) heven rfl rfl (defaultNaN_fits F)⟩
  · obtain ⟨heven, hexec⟩ := exec_div hfam hwf ha hb
    exact ⟨_, hexec, arithEffect_exact heven rfl (inf_fits F _)⟩
  · obtain ⟨heven, hexec⟩ := exec_div hfam hwf ha hb
    exact ⟨_, hexec, arithEffect_exact heven rfl (fits_fin_iff.mpr ⟨by positivity, le_rfl, F.xmin_lt_xmax.le⟩)⟩

/-- The operands propagate a signaling NaN of sign sg and payload cc: the first one that is signaling (R145). -/
def SignalingOperand (a b : Dfp) (sg : Bool) (cc : Nat) : Prop :=
  a = .snan sg cc ∨ (a.isSNaN = false ∧ b = .snan sg cc)

/-- The operands propagate a quiet NaN: neither is signaling, and it is the first NaN (R145). -/
def QuietOperand (a b : Dfp) (sg : Bool) (cc : Nat) : Prop :=
  (a = .qnan sg cc ∧ b.isSNaN = false) ∨ (a.isNaN = false ∧ b = .qnan sg cc)

section
variable {a b : Dfp} {sg : Bool} {cc : Nat}

theorem SignalingOperand.isNaN (h : SignalingOperand a b sg cc) : a.isNaN = true ∨ b.isNaN = true := by
  rcases h with rfl | ⟨-, rfl⟩
  · exact .inl rfl
  · exact .inr rfl

theorem QuietOperand.isNaN (h : QuietOperand a b sg cc) : a.isNaN = true ∨ b.isNaN = true := by
  rcases h with ⟨rfl, -⟩ | ⟨-, rfl⟩
  · exact .inl rfl
  · exact .inr rfl

/-- The quiet NaN of a signaling operand is picked, with VXSNAN. -/
theorem SignalingOperand.pick (h : SignalingOperand a b sg cc) :
    (a.isSNaN || b.isSNaN) = true ∧ pickNaN a b = .qnan sg cc := by
  rcases h with rfl | ⟨ha, rfl⟩
  · exact ⟨rfl, rfl⟩
  · exact ⟨by rw [ha]; rfl, by rw [pickNaN, ha]; rfl⟩

theorem isSNaN_of_not_isNaN (h : a.isNaN = false) : a.isSNaN = false := by
  cases a with
  | fin | inf | qnan => rfl
  | snan => cases h

theorem QuietOperand.pick (h : QuietOperand a b sg cc) :
    (a.isSNaN || b.isSNaN) = false ∧ pickNaN a b = .qnan sg cc := by
  rcases h with ⟨rfl, hb⟩ | ⟨ha, rfl⟩
  · exact ⟨by rw [hb]; rfl, by rw [pickNaN, hb]; rfl⟩
  · have hsig := isSNaN_of_not_isNaN ha
    exact ⟨by rw [hsig]; rfl, by rw [pickNaN, hsig, ha]; rfl⟩

/-- Subtract keeps a NaN in FRB as it is (R225, D11). -/
theorem SignalingOperand.addend (h : SignalingOperand a b sg cc) (sub : Bool) :
    SignalingOperand a (addend sub b) sg cc :=
  h.imp_right fun ⟨ha, hb⟩ => ⟨ha, by rw [hb, addend_snan]⟩

theorem QuietOperand.addend (h : QuietOperand a b sg cc) (sub : Bool) : QuietOperand a (addend sub b) sg cc := by
  refine h.imp (And.imp_right fun hb => ?_) fun ⟨ha, hb⟩ => ⟨ha, by rw [hb, addend_qnan]⟩
  cases b with
  | fin => rw [addend_fin]; rfl
  | inf => rw [addend_inf]; rfl
  | qnan => rw [addend_qnan]; rfl
  | snan => cases hb

/-- A NaN operand sends a table to its NaN rows (R222). -/
theorem addTable_nan (mode : RMode) (h : a.isNaN = true ∨ b.isNaN = true) : addTable mode a b = nanAction a b := by
  cases a with
  | qnan | snan => cases b <;> rfl
  | fin | inf =>
    cases b with
    | qnan | snan => rfl
    | fin | inf => simp [Dfp.isNaN] at h

theorem mulTable_nan (F : Format) (h : a.isNaN = true ∨ b.isNaN = true) : mulTable F a b = nanAction a b := by
  cases a with
  | qnan | snan => cases b <;> rfl
  | fin | inf =>
    cases b with
    | qnan | snan => rfl
    | fin | inf => simp [Dfp.isNaN] at h

theorem divTable_nan (F : Format) (h : a.isNaN = true ∨ b.isNaN = true) : divTable F a b = nanAction a b := by
  cases a with
  | qnan | snan => cases b <;> rfl
  | fin | inf =>
    cases b with
    | qnan | snan => rfl
    | fin | inf => simp [Dfp.isNaN] at h

theorem quantize_nan (F : Format) (mode : RMode) (h : a.isNaN = true ∨ b.isNaN = true) : quantize F a b mode =
    if (a.isSNaN || b.isSNaN) = true then .invalid [.vxsnan] (pickNaN a b) else .result (pickNaN a b) false false := by
  cases a with
  | qnan | snan => cases b <;> rfl
  | fin | inf =>
    cases b with
    | qnan | snan => rfl
    | fin | inf => simp [Dfp.isNaN] at h

end

/-- The state t shows which NaN of the operands was propagated into FRT[p] (R145). -/
def PropagatesNaN (F : Format) (frt : FReg) (a b : Dfp) (s t : State) : Prop :=
  (∀ sg cc, SignalingOperand a b sg cc → InvalidResult F frt (.qnan sg cc) 39 s t) ∧
    ∀ sg cc, QuietOperand a b sg cc → ExactResult F frt (.qnan sg cc) s t

section
variable {F : Format} {frt : FReg} {s : State} {a b : Dfp}

/-- A propagated payload is one of the format. -/
theorem SignalingOperand.fits {sg : Bool} {cc : Nat} (h : SignalingOperand a b sg cc) (ha : a.fits F = true)
    (hb : b.fits F = true) : (Dfp.qnan sg cc).fits F = true := by
  rcases h with rfl | ⟨-, rfl⟩
  · exact fits_qnan_iff.mpr (fits_snan_iff.mp ha)
  · exact fits_qnan_iff.mpr (fits_snan_iff.mp hb)

theorem QuietOperand.fits {sg : Bool} {cc : Nat} (h : QuietOperand a b sg cc) (ha : a.fits F = true)
    (hb : b.fits F = true) : (Dfp.qnan sg cc).fits F = true := by
  rcases h with ⟨rfl, -⟩ | ⟨-, rfl⟩
  · exact ha
  · exact hb

theorem addend_fits {sub : Bool} (hb : b.fits F = true) : (addend sub b).fits F = true := by
  cases b with
  | fin => rw [addend_fin]; exact hb
  | inf => rw [addend_inf]; exact hb
  | qnan => rwa [addend_qnan]
  | snan => rwa [addend_snan]

theorem arithEffect_propagatesNaN (rc : Bool) (heven : F = .dfp128 → frt.isEven = true) {act : Action}
    (h : a.isNaN = true ∨ b.isNaN = true → act = nanAction a b) (ha : a.fits F = true) (hb : b.fits F = true) :
    PropagatesNaN F frt a b s (finish (arithEffect F frt rc s.fpscr act) s) := by
  refine ⟨fun sg cc hnan => ?_, fun sg cc hnan => ?_⟩
  · obtain ⟨hsig, hpick⟩ := hnan.pick
    refine arithEffect_invalid (x := .vxsnan) heven ?_ rfl (hnan.fits ha hb)
    rw [h hnan.isNaN, nanAction, if_pos hsig, hpick]
  · obtain ⟨hquiet, hpick⟩ := hnan.pick
    refine arithEffect_exact heven ?_ (hnan.fits ha hb)
    rw [h hnan.isNaN, nanAction, hquiet, if_neg Bool.false_ne_true, hpick]

theorem PropagatesNaN.of_addend {sub : Bool} {t : State} (h : PropagatesNaN F frt a (addend sub b) s t) :
    PropagatesNaN F frt a b s t :=
  ⟨fun sg cc hnan => h.1 sg cc (hnan.addend sub), fun sg cc hnan => h.2 sg cc (hnan.addend sub)⟩

theorem quantize_propagatesNaN (rc : Bool) (mode : RMode) (heven : F = .dfp128 → frt.isEven = true)
    (ha : a.fits F = true) (hb : b.fits F = true) :
    PropagatesNaN F frt a b s (finish (adjustEffect F frt rc s.fpscr (quantize F a b mode)) s) := by
  refine ⟨fun sg cc hnan => ?_, fun sg cc hnan => ?_⟩
  · obtain ⟨hsig, hpick⟩ := hnan.pick
    rw [quantize_nan F mode hnan.isNaN, if_pos hsig, hpick]
    exact invalidEffect_result (x := .vxsnan) heven rfl (hnan.fits ha hb) rc
  · obtain ⟨hquiet, hpick⟩ := hnan.pick
    rw [quantize_nan F mode hnan.isNaN, hquiet, if_neg Bool.false_ne_true, hpick]
    exact adjustedEffect_exact heven (hnan.fits ha hb) rc

end

/-- The arithmetic instructions and `dqua[q]` propagate NaNs. -/
theorem exec_propagatesNaN {F : Format} {frt fra frb : FReg} {rc : Bool} {rmc : Fin 4} {i : Instr}
    (hop : (F = .dfp64 ∧ (i = .dadd frt fra frb rc ∨ i = .dsub frt fra frb rc ∨ i = .dmul frt fra frb rc ∨
        i = .ddiv frt fra frb rc ∨ i = .dqua frt fra frb rmc rc)) ∨
      (F = .dfp128 ∧ (i = .daddq frt fra frb rc ∨ i = .dsubq frt fra frb rc ∨ i = .dmulq frt fra frb rc ∨
        i = .ddivq frt fra frb rc ∨ i = .dquaq frt fra frb rmc rc)))
    (hwf : i.wellFormed = true) (s : State) :
    ∃ t, exec i s = .next t ∧ PropagatesNaN F frt (sourceDfp F s fra) (sourceDfp F s frb) s t := by
  have ha := sourceDfp_fits F s fra
  have hb := sourceDfp_fits F s frb
  have hadd {sub : Bool} (h : (F = .dfp64 ∧ sub = false ∧ i = .dadd frt fra frb rc) ∨
      (F = .dfp128 ∧ sub = false ∧ i = .daddq frt fra frb rc) ∨ (F = .dfp64 ∧ sub = true ∧ i = .dsub frt fra frb rc) ∨
      (F = .dfp128 ∧ sub = true ∧ i = .dsubq frt fra frb rc)) :
      ∃ t, exec i s = .next t ∧ PropagatesNaN F frt (sourceDfp F s fra) (sourceDfp F s frb) s t := by
    obtain ⟨heven, hexec⟩ := exec_sum h hwf rfl rfl
    exact ⟨_, hexec, (arithEffect_propagatesNaN rc heven (addTable_nan _) ha (addend_fits hb)).of_addend⟩
  have hmul (h : (F = .dfp64 ∧ i = .dmul frt fra frb rc) ∨ (F = .dfp128 ∧ i = .dmulq frt fra frb rc)) :
      ∃ t, exec i s = .next t ∧ PropagatesNaN F frt (sourceDfp F s fra) (sourceDfp F s frb) s t := by
    obtain ⟨heven, hexec⟩ := exec_mul h hwf rfl rfl
    exact ⟨_, hexec, arithEffect_propagatesNaN rc heven (mulTable_nan F) ha hb⟩
  have hdiv (h : (F = .dfp64 ∧ i = .ddiv frt fra frb rc) ∨ (F = .dfp128 ∧ i = .ddivq frt fra frb rc)) :
      ∃ t, exec i s = .next t ∧ PropagatesNaN F frt (sourceDfp F s fra) (sourceDfp F s frb) s t := by
    obtain ⟨heven, hexec⟩ := exec_div h hwf rfl rfl
    exact ⟨_, hexec, arithEffect_propagatesNaN rc heven (divTable_nan F) ha hb⟩
  have hqua (h : (F = .dfp64 ∧ i = .dqua frt fra frb rmc rc) ∨ (F = .dfp128 ∧ i = .dquaq frt fra frb rmc rc)) :
      ∃ t, exec i s = .next t ∧ PropagatesNaN F frt (sourceDfp F s fra) (sourceDfp F s frb) s t :=
    ⟨_, exec_of_format (eff := fun F s => quantizeEffect F frt fra frb rmc rc s) h hwf (fun _ => rfl) (fun _ => rfl) s,
      quantize_propagatesNaN rc _ (even_of_format h hwf List.mem_cons_self) ha hb⟩
  rcases hop with ⟨hF, h | h | h | h | h⟩ | ⟨hF, h | h | h | h | h⟩
  · exact hadd (.inl ⟨hF, rfl, h⟩)
  · exact hadd (.inr (.inr (.inl ⟨hF, rfl, h⟩)))
  · exact hmul (.inl ⟨hF, h⟩)
  · exact hdiv (.inl ⟨hF, h⟩)
  · exact hqua (.inl ⟨hF, h⟩)
  · exact hadd (.inr (.inl ⟨hF, rfl, h⟩))
  · exact hadd (.inr (.inr (.inr ⟨hF, rfl, h⟩)))
  · exact hmul (.inr ⟨hF, h⟩)
  · exact hdiv (.inr ⟨hF, h⟩)
  · exact hqua (.inr ⟨hF, h⟩)

/-- Settles O38: each table sends NaN operands to the NaN that `PickNaN` picks. -/
theorem nanPropagation : Obligations.NaNPropagation := by
  intro F s frt fra frb rc rmc i sg cc hop hwf
  obtain ⟨t, hexec, hsig, hquiet⟩ := exec_propagatesNaN hop hwf s
  exact ⟨fun h => ⟨t, hexec, hsig sg cc h⟩, fun h => ⟨t, hexec, hquiet sg cc h, (hquiet sg cc h).fprf⟩⟩

/-! ### Overflow of Multiply -/

/-- A value of at least ten to the k + P has a rounded form at an exponent of at least k. -/
theorem RoundsToDigits.exp_gt {P : Nat} {mode : RMode} {sg : Bool} {q : ℚ} {n : Nat} {e k : Int}
    (h : RoundsToDigits P mode sg q n e) (hq : (10 : ℚ) ^ (k + P) ≤ q) : k < e := by
  obtain ⟨e0, m, -, hlt, -, hform⟩ := h
  rw [← zpow_natCast, ← ten_zpow_add] at hlt
  have := ten_zpow_lt_iff.mp (hq.trans_lt hlt)
  split at hform <;> omega

/-- Settles O39: the product is delivered, its exponent is above Xmax and OE is 0. -/
theorem productOverflowDisabled : Obligations.ProductOverflowDisabled := by
  intro F op s frt fra frb rc sa sb ca cb ea eb hop hwf ha hb hbig hne
  obtain ⟨heven, hexec⟩ := exec_mul (op_family hop (· frt fra frb rc)) hwf ha hb
  have hc : ca * cb ≠ 0 := by
    intro h
    rw [h, finValue_false, Nat.cast_zero, zero_mul] at hbig
    exact absurd hbig (not_le.mpr (ten_zpow_pos _))
  obtain ⟨hca, hcb⟩ := mul_ne_zero_iff.mp hc
  have hrounds := mulTable_rounds (not_dfp32 hop) (ha ▸ sourceDfp_fits F s fra) (hb ▸ sourceDfp_fits F s frb) hca hcb
  have hneg : (sa ^^ sb) = true ↔ finValue sa ca ea * finValue sb cb eb < 0 := by
    rw [finValue_eq sa, finValue_eq sb]
    exact (sign_mul_lt_zero (finValue_pos hca ea) (finValue_pos hcb eb) sa sb).symm
  have hval : |finValue sa ca ea * finValue sb cb eb| = finValue false (ca * cb) (ea + eb) := by
    rw [abs_mul, abs_finValue, abs_finValue, finValue_false, finValue_false, finValue_false, ten_zpow_add]
    push_cast
    ring
  have hdel := arithEffect_delivery (s := s) (rc := rc) heven hrounds hneg
  rw [hval] at hdel
  have hmax : F.xmin + F.prec - 1 ≤ F.xmax + F.prec := by
    have := F.xmin_lt_xmax
    omega
  obtain ⟨n, e, hdig, -, hover, -⟩ := hdel.normal ((ten_zpow_le_iff.mpr hmax).trans hbig)
  have hres := hover (hdig.exp_gt hbig) (enabled_of_noEnables hne .overflow)
  obtain ⟨hox, hxx, hfi⟩ := hres.status
  exact ⟨_, hexec, hdel.done (.inl hne), hox, hxx, hfi, hres.value⟩

end Sys2Proof.Machine
end

section
/-! The compare and test instructions (43_compare.md, 44_test.md): the code of each, from the values of the operands. -/

namespace Sys2Proof.Machine

-- One proof at a time: elaborated in parallel, they need more memory than the check allows.
set_option Elab.async false

/-! ### Comparison by value (R240, R241) -/

/-- Numbers compare as their integers in units of a common power of ten do. -/
theorem unitsAt_value (s : Bool) (c : Nat) {e m : Int} (h : m ≤ e) :
    ((unitsAt s c e m : Int) : ℚ) * (10 : ℚ) ^ m = finValue s c e := by
  rw [← signed_value s c h]
  rfl

theorem unitsAt_lt_iff (sa sb : Bool) (ca cb : Nat) (ea eb : Int) :
    unitsAt sa ca ea (min ea eb) < unitsAt sb cb eb (min ea eb) ↔ finValue sa ca ea < finValue sb cb eb := by
  rw [← unitsAt_value sa ca (min_le_left ea eb), ← unitsAt_value sb cb (min_le_right ea eb),
    mul_lt_mul_iff_left₀ (ten_zpow_pos _), Int.cast_lt]

/-- Finite numbers are compared by value. -/
theorem compareCode_fin (sa sb : Bool) (ca cb : Nat) (ea eb : Int) :
    compareCode (.fin sa ca ea) (.fin sb cb eb) = if finValue sa ca ea < finValue sb cb eb then codeLess
      else if finValue sb cb eb < finValue sa ca ea then codeGreater else codeEqual := by
  have hgt := unitsAt_lt_iff sb sa cb ca eb ea
  rw [min_comm] at hgt
  simp only [compareCode, orderCode, unitsAt_lt_iff, hgt]

theorem compareCode_nan {a b : Dfp} (h : a.isNaN = true ∨ b.isNaN = true) : compareCode a b = codeUnordered := by
  cases a with
  | qnan | snan => cases b <;> rfl
  | fin | inf =>
    cases b with
    | qnan | snan => rfl
    | fin | inf => simp [Dfp.isNaN] at h

theorem compareExc_of_not_nan {ordered ve : Bool} {a b : Dfp} (ha : a.isNaN = false) (hb : b.isNaN = false) :
    compareExc ordered ve a b = [] := by
  rw [compareExc, isSNaN_of_not_isNaN ha, isSNaN_of_not_isNaN hb, ha, hb]
  rfl

/-- With a signaling NaN VXSNAN is set, and by Compare Ordered VXVC too unless VE is 1 (R246). -/
theorem compareExc_signaling {ordered ve : Bool} {a b : Dfp} (h : (a.isSNaN || b.isSNaN) = true) :
    decide (.vxsnan ∈ compareExc ordered ve a b) = true ∧
      decide (.vxvc ∈ compareExc ordered ve a b) = (ordered && !ve) := by
  rw [compareExc, if_pos h]
  cases ordered <;> cases ve <;> decide

/-- With no NaN but quiet ones Compare Ordered sets VXVC (R246). -/
theorem compareExc_quiet {ordered ve : Bool} {a b : Dfp} (hnan : (a.isNaN || b.isNaN) = true)
    (h : (a.isSNaN || b.isSNaN) = false) :
    decide (.vxsnan ∈ compareExc ordered ve a b) = false ∧ decide (.vxvc ∈ compareExc ordered ve a b) = ordered := by
  rw [compareExc, h, hnan, if_neg Bool.false_ne_true]
  cases ordered <;> decide

/-- A comparison causes invalid operations only. -/
theorem compareExc_kind {ordered ve : Bool} {a b : Dfp} : ∀ x ∈ compareExc ordered ve a b, x.kind = .invalid := by
  rcases compareExc_cases ordered ve a b with h | h | ⟨-, h | h⟩ <;> rw [h] <;> decide

/-- The effect of a compare instruction of a format. -/
theorem exec_compare {F : Format} {ordered : Bool} {op : CRField → FReg → FReg → Instr} {bf : CRField} {fra frb : FReg}
    (hop : (F = .dfp64 ∧ ((op = .dcmpu ∧ ordered = false) ∨ (op = .dcmpo ∧ ordered = true))) ∨
      (F = .dfp128 ∧ ((op = .dcmpuq ∧ ordered = false) ∨ (op = .dcmpoq ∧ ordered = true))))
    (hwf : (op bf fra frb).wellFormed = true) (s : State) :
    exec (op bf fra frb) s = .next (finish (codeEffect bf
      (compareExc ordered (bitAt s.fpscr 56) (sourceDfp F s fra) (sourceDfp F s frb))
      (compareCode (sourceDfp F s fra) (sourceDfp F s frb))) s) := by
  rcases hop with ⟨rfl, ⟨rfl, rfl⟩ | ⟨rfl, rfl⟩⟩ | ⟨rfl, ⟨rfl, rfl⟩ | ⟨rfl, rfl⟩⟩ <;> exact exec_wellFormed hwf s

/-- Settles O40: no NaN means no exception, and the code is that of the values. -/
theorem compareByValue : Obligations.CompareByValue := by
  intro F op s bf fra frb hop hwf ha hb
  obtain ⟨ordered, hfam⟩ : ∃ ordered, (F = .dfp64 ∧ ((op = .dcmpu ∧ ordered = false) ∨ (op = .dcmpo ∧ ordered = true))) ∨
      (F = .dfp128 ∧ ((op = .dcmpuq ∧ ordered = false) ∨ (op = .dcmpoq ∧ ordered = true))) := by
    rcases hop with ⟨hF, h | h⟩ | ⟨hF, h | h⟩
    · exact ⟨false, .inl ⟨hF, .inl ⟨h, rfl⟩⟩⟩
    · exact ⟨true, .inl ⟨hF, .inr ⟨h, rfl⟩⟩⟩
    · exact ⟨false, .inr ⟨hF, .inl ⟨h, rfl⟩⟩⟩
    · exact ⟨true, .inr ⟨hF, .inr ⟨h, rfl⟩⟩⟩
  have hexec := exec_compare hfam hwf s
  rw [compareExc_of_not_nan ha hb] at hexec
  obtain ⟨hcode, hkept⟩ := codeEffect_silent (s := s) bf (compareCode (sourceDfp F s fra) (sourceDfp F s frb))
  refine ⟨_, _, hexec, hkept, hcode, fun sa ca ea sb cb eb ha hb => ?_, fun sa cc sb cb eb ha hb => ?_,
    fun sa ca ea sb cc ha hb => ?_, fun sa cca sb ccb ha hb => ?_⟩ <;> rw [ha, hb]
  · exact compareCode_fin sa sb ca cb ea eb
  · rfl
  · rfl
  · rfl

/-- Settles O41: a NaN makes the comparison unordered, and sets VXSNAN and VXVC by `compareExc`. -/
theorem compareNaN : Obligations.CompareNaN := by
  intro F ordered op s bf fra frb hop hwf hnan
  have hexec := exec_compare hop hwf s
  rw [compareCode_nan hnan] at hexec
  obtain ⟨hcr, hfpcc⟩ := codeEffect_code (s := s) bf
    (compareExc ordered (bitAt s.fpscr 56) (sourceDfp F s fra) (sourceDfp F s frb)) codeUnordered
  have hstatus (x : Exc) := bitAt_finish_exc (s := s) (e := codeEffect bf
    (compareExc ordered (bitAt s.fpscr 56) (sourceDfp F s fra) (sourceDfp F s frb)) codeUnordered) rfl nofun x
  refine ⟨_, hexec, hcr, hfpcc, ?_, fun hdone => codeEffect_result _ ?_⟩
  · split
    · next hsig =>
      obtain ⟨hsnan, hvc⟩ := compareExc_signaling (ordered := ordered) (ve := bitAt s.fpscr 56)
        ((Bool.or_eq_true _ _).mpr hsig)
      exact ⟨(hstatus .vxsnan).trans (by rw [hsnan, Bool.or_true]), (hstatus .vxvc).trans (by rw [hvc]; rfl)⟩
    · next hsig =>
      obtain ⟨hsnan, hvc⟩ := compareExc_quiet (ordered := ordered) (ve := bitAt s.fpscr 56)
        ((Bool.or_eq_true _ _).mpr hnan) (Bool.eq_false_iff.mpr fun h => hsig ((Bool.or_eq_true _ _).mp h))
      exact ⟨(hstatus .vxsnan).trans (by rw [hsnan, Bool.or_false]; rfl), (hstatus .vxvc).trans (by rw [hvc]; rfl)⟩
  · rcases hdone with hmode | hve | ⟨rfl, ha, hb⟩
    · exact .inr hmode
    · exact .inl fun x hx => (congrArg (enabled s.fpscr) (compareExc_kind x hx)).trans hve
    · refine .inl fun x hx => ?_
      rw [compareExc, ha, hb, Bool.and_false] at hx
      cases hx

/-! ### The test instructions (44_test.md) -/

/-- The code sign || 0 || match || 0 (R251). -/
theorem matchCode_eq (sign hit : Bool) : matchCode sign hit =
    if sign = true then (if hit = true then 0b1010#4 else 0b1000#4) else if hit = true then 0b0010#4 else 0b0000#4 := by
  cases sign <;> cases hit <;> rfl

theorem CodeResult.of_eq {bf : CRField} {code code' : BitVec 4} {s t : State} (h : CodeResult bf code s t)
    (hc : code = code') : CodeResult bf code' s t := hc ▸ h

/-- The class of a finite number (R140, R251). -/
theorem dataClass_index_fin (F : Format) (sg : Bool) (c : Nat) (e : Int) : ((Dfp.fin sg c e).dataClass F).index =
    if c = 0 then 0 else if finValue false c e < (10 : ℚ) ^ (F.xmin + F.prec - 1) then 1 else 2 := by
  by_cases hc : c = 0
  · simp only [Dfp.dataClass, hc, if_true, DataClass.index]
  · simp only [Dfp.dataClass, hc, if_false, ← isSubnormal_iff hc]
    split <;> rfl

/-- The group of a finite number (R253). -/
theorem dataGroup_fin (F : Format) (sg : Bool) (c : Nat) (e : Int) : dataGroup F (.fin sg c e) =
    if c = 0 then (if e = F.xmin ∨ e = F.xmax then 1 else 0)
    else if finValue false c e < (10 : ℚ) ^ (F.xmin + F.prec - 1) ∨ e = F.xmin ∨ e = F.xmax then 2
    else if c < 10 ^ (F.prec - 1) then 3 else 4 := by
  have hlead : c / 10 ^ (F.prec - 1) = 0 ↔ c < 10 ^ (F.prec - 1) := Nat.div_eq_zero_iff_lt (by positivity)
  by_cases hc : c = 0
  · simp [dataGroup, hc]
  · simp only [dataGroup, hc, if_false, ← isSubnormal_iff hc, Bool.or_eq_true, beq_iff_eq, hlead]

/-- Settles O42: the class and the group are read off the operand. -/
theorem testDataMasks : Obligations.TestDataMasks := by
  rintro F s bf fra mask d rfl
  refine ⟨fun op hop hwf => ?_, fun op hop hwf => ?_⟩
  · have hexec := exec_of_format (eff := fun F s => testClassEffect F bf fra mask s) (op_family hop (· bf fra mask)) hwf
      (fun _ => rfl) (fun _ => rfl) s
    obtain ⟨hcode, hkept⟩ := codeEffect_silent (s := s) bf
      (matchCode (sourceDfp F s fra).sign (bitAt mask ((sourceDfp F s fra).dataClass F).index))
    refine ⟨_, _, _, hexec, hkept, hcode.of_eq (matchCode_eq _ _), fun sg c e hd => ?_, fun sg cc hd => ?_,
      fun sg cc hd => ?_, fun sg cc hd => ?_⟩ <;> rw [hd]
    · exact ⟨rfl, dataClass_index_fin F sg c e⟩
    · exact ⟨rfl, rfl⟩
    · exact ⟨rfl, rfl⟩
    · exact ⟨rfl, rfl⟩
  · have hexec := exec_of_format (eff := fun F s => testGroupEffect F bf fra mask s) (op_family hop (· bf fra mask)) hwf
      (fun _ => rfl) (fun _ => rfl) s
    obtain ⟨hcode, hkept⟩ := codeEffect_silent (s := s) bf
      (matchCode (sourceDfp F s fra).sign (bitAt mask (dataGroup F (sourceDfp F s fra))))
    refine ⟨_, _, _, hexec, hkept, hcode.of_eq (matchCode_eq _ _), fun sg c e hd => ?_, fun sg cc hd => ?_⟩
    · rw [hd]
      exact ⟨rfl, dataGroup_fin F sg c e⟩
    · rcases hd with hd | hd | hd <;> rw [hd] <;> exact ⟨rfl, rfl⟩

/-- NaNs have equal exponents (R255). -/
theorem exponentCode_nans {a b : Dfp} (ha : a.isNaN = true) (hb : b.isNaN = true) : exponentCode a b = codeEqual := by
  cases a with
  | fin | inf => cases ha
  | qnan | snan =>
    cases b with
    | fin | inf => cases hb
    | qnan | snan => rfl

/-- A NaN and another value have unordered exponents (R255). -/
theorem exponentCode_mixed {a b : Dfp} (h : a.isNaN ≠ b.isNaN) : exponentCode a b = codeUnordered := by
  cases a with
  | fin | inf =>
    cases b with
    | fin | inf => exact absurd rfl h
    | qnan | snan => rfl
  | qnan | snan =>
    cases b with
    | fin | inf => rfl
    | qnan | snan => exact absurd rfl h

/-- Settles O43: the code is read off the operands. -/
theorem testExponents : Obligations.TestExponents := by
  intro F op s bf fra frb hop hwf
  have hexec := exec_of_format (eff := fun F s => testExponentEffect F bf fra frb s) (op_family hop (· bf fra frb)) hwf
    (fun _ => rfl) (fun _ => rfl) s
  obtain ⟨hcode, hkept⟩ := codeEffect_silent (s := s) bf (exponentCode (sourceDfp F s fra) (sourceDfp F s frb))
  refine ⟨_, _, hexec, hcode, hkept, fun sa ca ea sb cb eb ha hb => ?_, fun sa ca sb cb ha hb => ?_, fun ha hb => ?_,
    fun hne => ?_, fun sa ca ea sb cb ha hb => ?_, fun sa ca sb cb eb ha hb => ?_⟩
  · rw [ha, hb]
    rfl
  · rw [ha, hb]
    rfl
  · exact exponentCode_nans ha hb
  · exact exponentCode_mixed hne
  · rw [ha, hb]
    rfl
  · rw [ha, hb]
    rfl

/-- The referenced significance is bits 58:63 (R259). -/
theorem readSignificance_eq_bits (s : State) (r : FReg) : readSignificance s r = ((readFpr s r).extractLsb' 0 6).toNat := by
  rw [BitVec.extractLsb'_toNat, Nat.shiftRight_zero]
  rfl

/-- The code of a test of significance by the size of the coefficient (R257). -/
theorem significanceCode_fin (k : Nat) (sb : Bool) (cb : Nat) (eb : Int) : significanceCode k (.fin sb cb eb) =
    if k = 0 ∨ cb < 10 ^ (k - 1) then codeGreater else if 10 ^ k ≤ cb then codeLess else codeEqual := by
  have h1 := digits_le_iff cb (k - 1)
  have h2 : 10 ^ k ≤ cb ↔ k < digits cb := by rw [← not_lt, ← digits_le_iff, not_le]
  simp only [significanceCode, orderCode, ← h1, h2, Nat.cast_lt]
  by_cases hk : k = 0
  · simp [hk]
  · have h3 : (k = 0 ∨ digits cb ≤ k - 1) ↔ digits cb < k := by omega
    simp only [h3, if_neg hk]
    rcases lt_trichotomy k (digits cb) with h | h | h
    · simp [h, h.not_gt]
    · simp [h]
    · simp [h, h.not_gt]

/-- Settles O44: k is compared with the number of digits. -/
theorem testSignificances : Obligations.TestSignificances := by
  intro F op s bf fra frb k hop hwf hk
  have hexec := exec_of_format (eff := fun F s => testSignificanceEffect F bf fra frb s) (op_family hop (· bf fra frb)) hwf
    (fun _ => rfl) (fun _ => rfl) s
  obtain ⟨hcode, hkept⟩ := codeEffect_silent (s := s) bf (significanceCode (readSignificance s fra) (sourceDfp F s frb))
  refine ⟨_, _, hexec, hcode, hkept, fun sb cb eb hb => ?_, ?_⟩
  · rw [hb, readSignificance_eq_bits, hk]
    exact significanceCode_fin k sb cb eb
  · rintro ⟨sg, cc, h | h | h⟩ <;> rw [h] <;> rfl

end Sys2Proof.Machine
end

section
/-! The quantum-adjustment instructions (45_quantum_adjustment.md): what each makes of its operands, and its result. -/

namespace Sys2Proof.Machine

-- One proof at a time: elaborated in parallel, they need more memory than the check allows.
set_option Elab.async false

section
variable {F : Format} {frt : FReg} {rc : Bool} {i : Instr} {s : State}

/-- A quantum-adjustment instruction runs with the outcome for its operands (R270). -/
theorem exec_adjust {i64 i128 : Instr} {o : Format → Adjusted}
    (h64 : effectOf i64 s = adjustEffect .dfp64 frt rc s.fpscr (o .dfp64))
    (h128 : effectOf i128 s = adjustEffect .dfp128 frt rc s.fpscr (o .dfp128)) (hr : frt ∈ i128.pairFields)
    (h : (F = .dfp64 ∧ i = i64) ∨ (F = .dfp128 ∧ i = i128)) (hwf : i.wellFormed = true) :
    (F = .dfp128 → frt.isEven = true) ∧ exec i s = .next (finish (adjustEffect F frt rc s.fpscr (o F)) s) := by
  refine ⟨even_of_format h hwf hr, ?_⟩
  rw [exec_wellFormed hwf]
  rcases h with ⟨rfl, rfl⟩ | ⟨rfl, rfl⟩
  · rw [h64]
  · rw [h128]

theorem exec_dqua {fra frb : FReg} {rmc : Fin 4} {a b : Dfp}
    (h : (F = .dfp64 ∧ i = .dqua frt fra frb rmc rc) ∨ (F = .dfp128 ∧ i = .dquaq frt fra frb rmc rc))
    (hwf : i.wellFormed = true) (ha : sourceDfp F s fra = a) (hb : sourceDfp F s frb = b) :
    (F = .dfp128 → frt.isEven = true) ∧
      exec i s = .next (finish (adjustEffect F frt rc s.fpscr (quantize F a b (rmcMode false rmc s.fpscr))) s) := by
  rw [← ha, ← hb]
  exact exec_adjust (o := fun F => quantize F (sourceDfp F s fra) (sourceDfp F s frb) (rmcMode false rmc s.fpscr)) rfl rfl
    List.mem_cons_self h hwf

theorem exec_dquai {te : BitVec 5} {frb : FReg} {rmc : Fin 4} {b : Dfp}
    (h : (F = .dfp64 ∧ i = .dquai frt te frb rmc rc) ∨ (F = .dfp128 ∧ i = .dquaiq frt te frb rmc rc))
    (hwf : i.wellFormed = true) (hb : sourceDfp F s frb = b) :
    (F = .dfp128 → frt.isEven = true) ∧ exec i s = .next (finish (adjustEffect F frt rc s.fpscr
      (quantize F (.fin false 1 te.toInt) b (rmcMode false rmc s.fpscr))) s) := by
  rw [← hb]
  exact exec_adjust (o := fun F => quantize F (.fin false 1 te.toInt) (sourceDfp F s frb) (rmcMode false rmc s.fpscr)) rfl
    rfl List.mem_cons_self h hwf

theorem exec_drrnd {fra frb : FReg} {rmc : Fin 4} {b : Dfp}
    (h : (F = .dfp64 ∧ i = .drrnd frt fra frb rmc rc) ∨ (F = .dfp128 ∧ i = .drrndq frt fra frb rmc rc))
    (hwf : i.wellFormed = true) (hb : sourceDfp F s frb = b) :
    (F = .dfp128 → frt.isEven = true) ∧ exec i s = .next (finish (adjustEffect F frt rc s.fpscr
      (reround F (readSignificance s fra) b (rmcMode false rmc s.fpscr))) s) := by
  rw [← hb]
  exact exec_adjust (o := fun F => reround F (readSignificance s fra) (sourceDfp F s frb) (rmcMode false rmc s.fpscr)) rfl
    rfl List.mem_cons_self h hwf

theorem exec_drintx {r : Bool} {frb : FReg} {rmc : Fin 4} {b : Dfp}
    (h : (F = .dfp64 ∧ i = .drintx frt r frb rmc rc) ∨ (F = .dfp128 ∧ i = .drintxq frt r frb rmc rc))
    (hwf : i.wellFormed = true) (hb : sourceDfp F s frb = b) :
    (F = .dfp128 → frt.isEven = true) ∧
      exec i s = .next (finish (adjustEffect F frt rc s.fpscr (roundToInt b (rmcMode r rmc s.fpscr) true)) s) := by
  rw [← hb]
  exact exec_adjust (o := fun F => roundToInt (sourceDfp F s frb) (rmcMode r rmc s.fpscr) true) rfl rfl
    List.mem_cons_self h hwf

theorem exec_drintn {r : Bool} {frb : FReg} {rmc : Fin 4} {b : Dfp}
    (h : (F = .dfp64 ∧ i = .drintn frt r frb rmc rc) ∨ (F = .dfp128 ∧ i = .drintnq frt r frb rmc rc))
    (hwf : i.wellFormed = true) (hb : sourceDfp F s frb = b) :
    (F = .dfp128 → frt.isEven = true) ∧
      exec i s = .next (finish (adjustEffect F frt rc s.fpscr (roundToInt b (rmcMode r rmc s.fpscr) false)) s) := by
  rw [← hb]
  exact exec_adjust (o := fun F => roundToInt (sourceDfp F s frb) (rmcMode r rmc s.fpscr) false) rfl rfl
    List.mem_cons_self h hwf

theorem adjustEffect_result (heven : F = .dfp128 → frt.isEven = true) {o : Adjusted} {d : Dfp} {fi fr : Bool}
    (h : o = .result d fi fr) (hd : d.fits F = true) :
    AdjustedResult F frt d fi fr s (finish (adjustEffect F frt rc s.fpscr o) s) := by
  rw [h]
  exact adjustedEffect_result heven hd fi fr rc

theorem adjustEffect_exact (heven : F = .dfp128 → frt.isEven = true) {o : Adjusted} {d : Dfp}
    (h : o = .result d false false) (hd : d.fits F = true) :
    ExactResult F frt d s (finish (adjustEffect F frt rc s.fpscr o) s) := by
  rw [h]
  exact adjustedEffect_exact heven hd rc

theorem adjustEffect_invalid (heven : F = .dfp128 → frt.isEven = true) {o : Adjusted} {x : Exc} {sg : Bool} {cc : Nat}
    (h : o = .invalid [x] (.qnan sg cc)) (hk : x.kind = .invalid) (hd : (Dfp.qnan sg cc).fits F = true) :
    InvalidResult F frt (.qnan sg cc) x.bit s (finish (adjustEffect F frt rc s.fpscr o) s) ∧
      bitAt (finish (adjustEffect F frt rc s.fpscr o) s).fpscr 38 = bitAt s.fpscr 38 := by
  rw [h]
  exact ⟨invalidEffect_result heven hk hd rc, invalidEffect_xx hk rc _⟩

end

/-! ### Quantize (R272) -/

section
variable {F : Format} {te se : Int} {sb : Bool} {cb : Nat}

theorem lt_maxCoef_iff (F : Format) (n : Nat) : F.maxCoef < n ↔ 10 ^ F.prec ≤ n := by
  have : 0 < 10 ^ F.prec := by positivity
  unfold Format.maxCoef
  omega

/-- A coefficient that stays below ten to the p at the target exponent is brought there exactly. -/
theorem quantizeFinite_exact (mode : RMode) (hte : te ≤ se) (h : cb * 10 ^ (se - te).toNat < 10 ^ F.prec) :
    quantizeFinite F te sb cb se mode = .result (.fin sb (cb * 10 ^ (se - te).toNat) te) false false := by
  rcases eq_or_ne cb 0 with rfl | hc
  · simp [quantizeFinite]
  rcases lt_or_eq_of_le hte with hlt | rfl
  · have hmax : ¬ F.maxCoef < cb * 10 ^ (se - te).toNat := fun hm => absurd ((lt_maxCoef_iff F _).mp hm) (not_le.mpr h)
    simp [quantizeFinite, hc, hlt, hmax]
  · simp [quantizeFinite, hc]

/-- A coefficient that does not is an invalid operation. -/
theorem quantizeFinite_invalid (mode : RMode) (hte : te ≤ se) (hc : cb < 10 ^ F.prec)
    (h : 10 ^ F.prec ≤ cb * 10 ^ (se - te).toNat) : quantizeFinite F te sb cb se mode = .invalid [.vxcvi] defaultNaN := by
  have hc0 : cb ≠ 0 := by
    rintro rfl
    rw [Nat.zero_mul] at h
    exact absurd h (not_le.mpr (by positivity))
  rcases lt_or_eq_of_le hte with hlt | rfl
  · simp [quantizeFinite, hc0, hlt, (lt_maxCoef_iff F _).mpr h]
  · rw [Int.sub_self, Int.toNat_zero, pow_zero, Nat.mul_one] at h
    exact absurd h (not_le.mpr hc)

/-- At a larger exponent the coefficient is rounded. -/
theorem quantizeFinite_rounds (F : Format) (sb : Bool) (cb : Nat) (mode : RMode) (hte : se < te) :
    quantizeFinite F te sb cb se mode = .result (.fin sb (roundInt mode sb cb (10 ^ (te - se).toNat)).n te)
      (roundInt mode sb cb (10 ^ (te - se).toNat)).inexact (roundInt mode sb cb (10 ^ (te - se).toNat)).incremented := by
  rcases eq_or_ne cb 0 with rfl | hc
  · simp [quantizeFinite, roundInt]
  · simp [quantizeFinite, hc, hte.not_gt, hte.ne']

end

/-- A coefficient from which digits are rounded off stays below ten to the p. -/
theorem roundInt_lt {F : Format} {c k : Nat} (hc : c < 10 ^ F.prec) (hk : 0 < k) (mode : RMode) (sg : Bool) :
    (roundInt mode sg c (10 ^ k)).n < 10 ^ F.prec := by
  have hp := F.prec_pos
  have hle : (roundInt mode sg c (10 ^ k)).n ≤ 10 ^ (F.prec - 1) := by
    refine (roundInt_spec mode sg c (by positivity)).1.le_of_lt ?_
    rw [div_lt_iff₀ (by positivity)]
    have hpow : 10 ^ F.prec ≤ 10 ^ (F.prec - 1) * 10 ^ k := by
      rw [← pow_add]
      exact Nat.pow_le_pow_right (by norm_num) (by omega)
    exact_mod_cast hc.trans_le hpow
  exact hle.trans_lt (Nat.pow_lt_pow_right (by norm_num) (by omega))

/-- Settles O45: the target exponent is that of FRA or TE, and the finite case of Quantize has three outcomes. -/
theorem quantizeFinite' : Obligations.QuantizeFinite := by
  intro F s frt fra frb te5 rmc rc i sb cb te se hop hwf hb
  obtain ⟨hc, hselo, hsehi⟩ := fits_fin_iff.mp (hb ▸ sourceDfp_fits F s frb)
  obtain ⟨heven, hexec, hlo, hhi⟩ : (F = .dfp128 → frt.isEven = true) ∧
      exec i s = .next (finish (adjustEffect F frt rc s.fpscr
        (quantizeFinite F te sb cb se (rmcMode false rmc s.fpscr))) s) ∧ F.xmin ≤ te ∧ te ≤ F.xmax := by
    rcases hop with ⟨⟨sa, ca, ha⟩, hfam⟩ | ⟨rfl, hfam⟩
    · obtain ⟨-, hlo, hhi⟩ := fits_fin_iff.mp (ha ▸ sourceDfp_fits F s fra)
      obtain ⟨heven, hexec⟩ := exec_dqua hfam hwf ha hb
      exact ⟨heven, hexec, hlo, hhi⟩
    · obtain ⟨heven, hexec⟩ := exec_dquai hfam hwf hb
      have hrange : ∀ x : BitVec 5, -16 ≤ x.toInt ∧ x.toInt ≤ 15 := by decide
      have hformat : F.xmin ≤ -16 ∧ 15 ≤ F.xmax := by rcases hfam with ⟨rfl, -⟩ | ⟨rfl, -⟩ <;> decide
      exact ⟨heven, hexec, hformat.1.trans (hrange te5).1, (hrange te5).2.trans hformat.2⟩
  refine ⟨_, hexec, fun hte hlt => ?_, fun hte hge => ?_, fun hte => ?_⟩
  · exact adjustEffect_exact heven (quantizeFinite_exact _ hte hlt) (fits_fin_iff.mpr ⟨hlt, hlo, hhi⟩)
  · exact adjustEffect_invalid (x := .vxcvi) heven (quantizeFinite_invalid _ hte hc hge) rfl (defaultNaN_fits F)
  · obtain ⟨hr, hinex, hinc⟩ := roundInt_spec (rmcMode false rmc s.fpscr) sb cb (den := 10 ^ (te - se).toNat) (by positivity)
    rw [Nat.cast_pow, Nat.cast_ofNat] at hr hinex hinc
    exact ⟨_, _, _, hr, hinex, hinc, adjustEffect_result heven (quantizeFinite_rounds F sb cb _ hte)
      (fits_fin_iff.mpr ⟨roundInt_lt hc (by omega) _ _, hlo, hhi⟩)⟩

/-! ### Reround (R277) -/

/-- The exponent at which a coefficient has P digits. -/
theorem precExp_of_natural {c : Nat} (hc : 0 < c) (e : Int) (P : Nat) :
    Mag.precExp { num := c, den := 1, exp := e } P = e + digits c - P := by
  obtain ⟨hpos, hlo, -⟩ := digits_spec hc
  have hone : digits 1 = 1 := by decide
  have hlog : Mag.floorLog10 { num := c, den := 1, exp := e } = e + (digits c - 1) := by
    unfold Mag.floorLog10
    dsimp only
    rw [hone, if_pos ?_]
    · omega
    · rw [show (-((digits c : Int) - (1 : Nat))).toNat = 0 by omega, show ((digits c : Int) - (1 : Nat)).toNat = digits c - 1 by omega,
        pow_zero, Nat.one_mul, Nat.mul_one]
      exact hlo
  unfold Mag.precExp
  omega

/-- Reround of a coefficient of more than k digits is rounding to k digits, refused above Xmax. -/
theorem reroundFinite_eq_roundP {F : Format} {k c : Nat} {e : Int} (sg : Bool) (mode : RMode) (hk : 0 < k)
    (hc : 10 ^ k ≤ c) : reroundFinite F k sg c e mode =
      if F.xmax < (roundP k mode sg { num := c, den := 1, exp := e }).e then .invalid [.vxcvi] defaultNaN
      else .result (.fin sg (roundP k mode sg { num := c, den := 1, exp := e }).c (roundP k mode sg { num := c, den := 1, exp := e }).e)
        (roundP k mode sg { num := c, den := 1, exp := e }).inexact
        (roundP k mode sg { num := c, den := 1, exp := e }).incremented := by
  have hcpos : 0 < c := (Nat.pow_pos (by norm_num)).trans_le hc
  have hdig : k < digits c := by
    rw [← not_le, digits_le_iff]
    exact not_lt.mpr hc
  have hexp := precExp_of_natural hcpos e k
  have hround : roundAt mode sg { num := c, den := 1, exp := e } (e + (digits c - k : Nat)) =
      roundInt mode sg c (10 ^ (digits c - k)) := by
    rw [roundAt, Mag.numAt, Mag.denAt]
    dsimp only
    rw [show (e - (e + ((digits c - k : Nat) : Int))).toNat = 0 by omega,
      show (e + ((digits c - k : Nat) : Int) - e).toNat = digits c - k by omega, pow_zero, Nat.mul_one, Nat.one_mul]
  have hne : ¬ (k = 0 ∨ digits c ≤ k) := by omega
  have hP : Mag.precExp { num := c, den := 1, exp := e } k = e + (digits c - k : Nat) := by omega
  unfold reroundFinite roundP
  rw [if_neg hne, hP, hround]
  by_cases hm : (roundInt mode sg c (10 ^ (digits c - k))).n = 10 ^ k
  · simp only [hm, if_true]
  · simp only [hm, if_false]

/-- Settles O46: with more than k digits Reround is rounding to k digits. -/
theorem reroundFinite' : Obligations.ReroundFinite := by
  intro F op s frt fra frb rmc rc sb cb k se hop hwf hk hb
  have hfits : (Dfp.fin sb cb se).fits F = true := hb ▸ sourceDfp_fits F s frb
  obtain ⟨hc, hlo, -⟩ := fits_fin_iff.mp hfits
  obtain ⟨heven, hexec⟩ := exec_drrnd (op_family hop (· frt fra frb rmc rc)) hwf hb
  rw [readSignificance_eq_bits, hk] at hexec
  refine ⟨_, hexec, fun hkeep => adjustEffect_exact heven ?_ hfits, fun hk0 hge => ?_⟩
  · rw [← digits_le_iff] at hkeep
    simp only [reround, reroundFinite, hkeep, if_true]
  have hkpos := Nat.pos_of_ne_zero hk0
  have hcpos : 0 < cb := (Nat.pow_pos (by norm_num)).trans_le hge
  have hval : Mag.value { num := cb, den := 1, exp := se } = finValue false cb se := by
    rw [Mag.value, finValue_false, Nat.cast_one, div_one]
  have hkprec : 10 ^ k < 10 ^ F.prec := hge.trans_lt hc
  obtain ⟨hdig, ⟨-, hlt⟩, ⟨hexplo, -⟩, hinex, hinc⟩ := roundP_spec hkpos (rmcMode false rmc s.fpscr) sb
    (v := { num := cb, den := 1, exp := se }) hcpos Nat.one_pos
  rw [precExp_of_natural hcpos] at hexplo
  have hdigits : k < digits cb := by
    rw [← not_le, digits_le_iff]
    exact not_lt.mpr hge
  rw [hval] at hdig hinex hinc
  have hout := reroundFinite_eq_roundP (F := F) (e := se) sb (rmcMode false rmc s.fpscr) hkpos hge
  refine ⟨_, _, hdig, fun hle => ⟨_, _, hinex, hinc, adjustEffect_result heven (hout.trans (if_neg (not_lt.mpr hle)))
    (fits_fin_iff.mpr ⟨hlt.trans hkprec, by omega, hle⟩)⟩, fun hgt => ?_⟩
  exact adjustEffect_invalid (x := .vxcvi) heven (hout.trans (if_pos hgt)) rfl (defaultNaN_fits F)

/-! ### Round To FP Integer (R280) -/

/-- Settles O47: a negative exponent is rounded to exponent 0, with or without inexact. -/
theorem roundToFpInteger : Obligations.RoundToFpInteger := by
  intro F wi op s frt frb r rmc rc sb cb se hop hwf hb
  have hfits : (Dfp.fin sb cb se).fits F = true := hb ▸ sourceDfp_fits F s frb
  obtain ⟨hc, -⟩ := fits_fin_iff.mp hfits
  obtain ⟨heven, hexec⟩ : (F = .dfp128 → frt.isEven = true) ∧ exec (op frt r frb rmc rc) s =
      .next (finish (adjustEffect F frt rc s.fpscr (roundToInt (.fin sb cb se) (rmcMode r rmc s.fpscr) wi)) s) := by
    rcases hop with ⟨hF, ⟨rfl, rfl⟩ | ⟨rfl, rfl⟩⟩ | ⟨hF, ⟨rfl, rfl⟩ | ⟨rfl, rfl⟩⟩
    · exact exec_drintx (.inl ⟨hF, rfl⟩) hwf hb
    · exact exec_drintn (.inl ⟨hF, rfl⟩) hwf hb
    · exact exec_drintx (.inr ⟨hF, rfl⟩) hwf hb
    · exact exec_drintn (.inr ⟨hF, rfl⟩) hwf hb
  refine ⟨_, hexec, fun hse => adjustEffect_exact heven (if_pos hse) hfits, fun hse => ?_⟩
  have hval : (cb : ℚ) / ((10 ^ (-se).toNat : Nat) : ℚ) = finValue false cb se := by
    rw [finValue_false, ← ten_pow_toNat_div se, Int.toNat_of_nonpos hse.le, pow_zero, Nat.cast_one, mul_one_div]
  obtain ⟨hr, hinex, hinc⟩ := roundInt_spec (rmcMode r rmc s.fpscr) sb cb (den := 10 ^ (-se).toNat) (by positivity)
  rw [hval] at hr hinex hinc
  have hzero : F.xmin ≤ 0 ∧ 0 ≤ F.xmax := by cases F <;> decide
  have hrfits : (Dfp.fin sb (roundInt (rmcMode r rmc s.fpscr) sb cb (10 ^ (-se).toNat)).n 0).fits F = true :=
    fits_fin_iff.mpr ⟨roundInt_lt hc (by omega) _ _, hzero.1, hzero.2⟩
  cases wi
  · exact ⟨_, false, false, hr, by simp, by simp, adjustEffect_result heven (by simp [roundToInt, hse.not_ge]) hrfits⟩
  · exact ⟨_, _, _, hr, by simpa using hinex, by simpa using hinc,
      adjustEffect_result heven (by simp [roundToInt, hse.not_ge]) hrfits⟩

/-! ### Infinities and NaNs (R272 to R284) -/

/-- The first of several instructions of each format, or one of the others. -/
theorem family_or {F : Format} {p q p' q' : Prop} (h : (F = .dfp64 ∧ (p ∨ q)) ∨ (F = .dfp128 ∧ (p' ∨ q'))) :
    ((F = .dfp64 ∧ p) ∨ (F = .dfp128 ∧ p')) ∨ ((F = .dfp64 ∧ q) ∨ (F = .dfp128 ∧ q')) := by
  rcases h with ⟨hF, h | h⟩ | ⟨hF, h | h⟩
  · exact .inl (.inl ⟨hF, h⟩)
  · exact .inr (.inl ⟨hF, h⟩)
  · exact .inl (.inr ⟨hF, h⟩)
  · exact .inr (.inr ⟨hF, h⟩)

/-- The instructions with one DFP operand: a quiet NaN is their result, a signaling one is invalid. -/
theorem exec_specialOutcome {F : Format} {frt fra frb : FReg} {te : BitVec 5} {r rc : Bool} {rmc : Fin 4} {i : Instr}
    (hop : (F = .dfp64 ∧ (i = .dquai frt te frb rmc rc ∨ i = .drrnd frt fra frb rmc rc ∨ i = .drintx frt r frb rmc rc ∨
        i = .drintn frt r frb rmc rc)) ∨
      (F = .dfp128 ∧ (i = .dquaiq frt te frb rmc rc ∨ i = .drrndq frt fra frb rmc rc ∨ i = .drintxq frt r frb rmc rc ∨
        i = .drintnq frt r frb rmc rc))) (hwf : i.wellFormed = true) (s : State) :
    ∃ o : Adjusted, (F = .dfp128 → frt.isEven = true) ∧
      exec i s = .next (finish (adjustEffect F frt rc s.fpscr o) s) ∧
      (∀ sg cc, sourceDfp F s frb = .qnan sg cc → o = .result (.qnan sg cc) false false) ∧
      ∀ sg cc, sourceDfp F s frb = .snan sg cc → o = .invalid [.vxsnan] (.qnan sg cc) := by
  rcases family_or hop with hfam | hop
  · obtain ⟨heven, hexec⟩ := exec_dquai hfam hwf (s := s) rfl
    exact ⟨_, heven, hexec, fun sg cc hb => by rw [hb]; rfl, fun sg cc hb => by rw [hb]; rfl⟩
  rcases family_or hop with hfam | hop
  · obtain ⟨heven, hexec⟩ := exec_drrnd hfam hwf (s := s) rfl
    exact ⟨_, heven, hexec, fun sg cc hb => by rw [hb]; rfl, fun sg cc hb => by rw [hb]; rfl⟩
  rcases family_or hop with hfam | hfam
  · obtain ⟨heven, hexec⟩ := exec_drintx hfam hwf (s := s) rfl
    exact ⟨_, heven, hexec, fun sg cc hb => by rw [hb]; rfl, fun sg cc hb => by rw [hb]; rfl⟩
  · obtain ⟨heven, hexec⟩ := exec_drintn hfam hwf (s := s) rfl
    exact ⟨_, heven, hexec, fun sg cc hb => by rw [hb]; rfl, fun sg cc hb => by rw [hb]; rfl⟩

/-- Settles O48: the rows of the specials. -/
theorem quantumSpecials : Obligations.QuantumSpecials := by
  intro F s frt fra frb te r rc rmc i sg cc hwf
  refine ⟨fun hfam => ⟨?_, ?_⟩, fun hfam hb => ?_, fun hfam hb => ?_, fun hfam => ⟨fun hb => ?_, fun hb => ?_⟩⟩
  · rintro ⟨sa, ca, ha⟩ hb
    obtain ⟨heven, hexec⟩ := exec_dqua hfam hwf ha hb
    exact ⟨_, hexec, adjustEffect_exact heven rfl (inf_fits F sg)⟩
  · rintro (⟨⟨sa, ca, ha⟩, sb, cb, eb, hb⟩ | ⟨⟨sa, ca, ea, ha⟩, hb⟩)
    · obtain ⟨heven, hexec⟩ := exec_dqua hfam hwf ha hb
      exact ⟨_, hexec, (adjustEffect_invalid (x := .vxcvi) heven rfl rfl (defaultNaN_fits F)).1⟩
    · obtain ⟨heven, hexec⟩ := exec_dqua hfam hwf ha hb
      exact ⟨_, hexec, (adjustEffect_invalid (x := .vxcvi) heven rfl rfl (defaultNaN_fits F)).1⟩
  · obtain ⟨heven, hexec⟩ := exec_dquai hfam hwf hb
    exact ⟨_, hexec, (adjustEffect_invalid (x := .vxcvi) heven rfl rfl (defaultNaN_fits F)).1⟩
  · rcases family_or hfam with hfam | hfam
    · obtain ⟨heven, hexec⟩ := exec_drrnd hfam hwf hb
      exact ⟨_, hexec, adjustEffect_exact heven rfl (inf_fits F sg)⟩
    rcases family_or hfam with hfam | hfam
    · obtain ⟨heven, hexec⟩ := exec_drintx hfam hwf hb
      exact ⟨_, hexec, adjustEffect_exact heven rfl (inf_fits F sg)⟩
    · obtain ⟨heven, hexec⟩ := exec_drintn hfam hwf hb
      exact ⟨_, hexec, adjustEffect_exact heven rfl (inf_fits F sg)⟩
  · obtain ⟨o, heven, hexec, hquiet, -⟩ := exec_specialOutcome hfam hwf s
    exact ⟨_, hexec, adjustEffect_exact heven (hquiet sg cc hb) (hb ▸ sourceDfp_fits F s frb)⟩
  · obtain ⟨o, heven, hexec, -, hsig⟩ := exec_specialOutcome hfam hwf s
    have hfits : (Dfp.qnan sg cc).fits F = true := fits_qnan_iff.mpr (fits_snan_iff.mp (hb ▸ sourceDfp_fits F s frb))
    exact ⟨_, hexec, (adjustEffect_invalid (x := .vxsnan) heven (hsig sg cc hb) rfl hfits).1⟩

end Sys2Proof.Machine
end

section
/-! The conversion instructions (46_conversion.md). -/

namespace Sys2Proof.Machine

-- One proof at a time: elaborated in parallel, they need more memory than the check allows.
set_option Elab.async false

/-! ### Widening (R301, R302) -/

/-- A value of a format is one of a wider format. -/
theorem fits_wider {F G : Format} {d : Dfp} (hprec : F.prec ≤ G.prec) (hlo : G.xmin ≤ F.xmin) (hhi : F.xmax ≤ G.xmax)
    (h : d.fits F = true) : d.fits G = true := by
  have hcc : ∀ {cc : Nat}, cc < 10 ^ (F.prec - 1) → cc < 10 ^ (G.prec - 1) := fun hlt =>
    hlt.trans_le (Nat.pow_le_pow_right (by norm_num) (by omega))
  cases d with
  | fin s c e =>
    obtain ⟨hc, h1, h2⟩ := fits_fin_iff.mp h
    exact fits_fin_iff.mpr ⟨hc.trans_le (Nat.pow_le_pow_right (by norm_num) hprec), hlo.trans h1, h2.trans hhi⟩
  | inf => exact fits_inf_iff.mpr (hcc (fits_inf_iff.mp h))
  | qnan => exact fits_qnan_iff.mpr (hcc (fits_qnan_iff.mp h))
  | snan => exact fits_snan_iff.mpr (hcc (fits_snan_iff.mp h))

theorem fits_dfp64_of_dfp32 {d : Dfp} (h : d.fits .dfp32 = true) : d.fits .dfp64 = true :=
  fits_wider (by decide) (by decide) (by decide) h

theorem fits_dfp128_of_dfp64 {d : Dfp} (h : d.fits .dfp64 = true) : d.fits .dfp128 = true :=
  fits_wider (by decide) (by decide) (by decide) h

section
variable {F : Format} {frt frb : FReg} {rc : Bool} {d : Dfp} {s : State}

/-- A conversion without exceptions sets the target and FPRF (R301, R305). -/
theorem convertedEffect_result (heven : F = .dfp128 → frt.isEven = true) (hd : d.fits F = true) :
    Completed s (finish (convertedEffect F frt rc d) s) ∧ sourceDfp F (finish (convertedEffect F frt rc d) s) frt = d ∧
      fprfField (finish (convertedEffect F frt rc d) s).fpscr = fprfOf F d ∧
      FpscrKept [33, 34, 47, 48, 49, 50, 51] s (finish (convertedEffect F frt rc d) s) := by
  refine ⟨finish_completed_of_disabled (.inl nofun), sourceDfp_finish (writesDfp_dfpWrites heven hd),
    fprfField_finish (e := convertedEffect F frt rc d) rfl rfl rfl, fun j hj hout => ?_⟩
  rw [finish_fpscr]
  exact (convertedEffect_within d).kept _ hj hout

theorem isEven_iff {r : FReg} : r.isEven = true ↔ r.val % 2 = 0 := beq_iff_eq

/-- Settles O49: a narrower value is a value of the wider format. -/
theorem widening : Obligations.Widening := by
  intro s frt frb rc
  refine ⟨⟨_, exec_wellFormed rfl s, ?_⟩, fun heven => ?_⟩
  · exact convertedEffect_result nofun (fits_dfp64_of_dfp32 (sourceDfp_fits .dfp32 s frb))
  have heven' : Format.dfp128 = .dfp128 → frt.isEven = true := fun _ => isEven_iff.mpr heven
  have hexec : exec (.dctqpq frt frb rc) s = .next (finish (toDfp128Effect frt frb rc s) s) :=
    exec_wellFormed (i := .dctqpq frt frb rc) (by simp [Instr.wellFormed, Instr.pairFields, heven' rfl]) s
  refine ⟨fun d hd hsig => ⟨_, hexec, ?_⟩, fun sg cc hd => ⟨_, hexec, ?_⟩⟩
  · have hfits : d.fits .dfp128 = true := fits_dfp128_of_dfp64 (hd ▸ sourceDfp_fits .dfp64 s frb)
    unfold toDfp128Effect
    rw [hd]
    cases d with
    | snan => cases hsig
    | qnan => exact exactEffect_result heven' hfits rc
    | inf sg => exact exactEffect_result heven' (inf_fits .dfp128 sg) rc
    | fin => exact exactEffect_result heven' hfits rc
  · have hfits : (Dfp.qnan sg cc).fits .dfp128 = true :=
      fits_dfp128_of_dfp64 (fits_qnan_iff.mpr (fits_snan_iff.mp (hd ▸ sourceDfp_fits .dfp64 s frb)))
    unfold toDfp128Effect
    rw [hd]
    exact invalidEffect_result (x := .vxsnan) heven' rfl hfits rc

end

/-! ### Narrowing (R303, R304, R309) -/

/-- The formats and the wrap adjustment of the two narrowing conversions. -/
def Narrows (Fs Ft : Format) (alpha : Int) : Prop :=
  (Fs = .dfp64 ∧ Ft = .dfp32 ∧ alpha = 192) ∨ (Fs = .dfp128 ∧ Ft = .dfp64 ∧ alpha = 3072)

section
variable {Fs Ft : Format} {alpha : Int} {s : State} {frt frb : FReg} {rc : Bool} {i : Instr} {sg : Bool} {c : Nat} {e : Int}

/-- A value of the source format is wrapped by alpha to a value of that format. -/
theorem wrapFits_narrow (h : Narrows Fs Ft alpha) (hfits : (Dfp.fin sg c e).fits Fs = true) (hc : c ≠ 0) :
    WrapFits Ft Fs alpha (finValue false c e) := by
  obtain ⟨hlo, hhi⟩ := finValue_bounds hfits hc
  obtain ⟨h1, h2, h3, h4, h5⟩ : Ft.prec ≤ Fs.prec ∧ Fs.xmin ≤ Ft.xmax - alpha ∧ Ft.xmin + alpha ≤ Fs.xmax ∧
      (Ft.prec : Int) - 1 ≤ alpha ∧ (Fs.prec : Int) + 1 ≤ alpha + Ft.prec := by
    rcases h with ⟨rfl, rfl, rfl⟩ | ⟨rfl, rfl, rfl⟩ <;> decide
  exact ⟨h1, h2, h3, (ten_zpow_le_iff.mpr (by omega)).trans hlo, hhi.trans_le (ten_zpow_le_iff.mpr (by omega))⟩

/-- The narrowing conversions of a finite operand run with the effect of `NarrowFinite`, whatever fills the open bits. -/
theorem exec_narrow (hop : (Fs = .dfp64 ∧ Ft = .dfp32 ∧ alpha = 192 ∧ i = .drsp frt frb rc) ∨
      (Fs = .dfp128 ∧ Ft = .dfp64 ∧ alpha = 3072 ∧ i = .drdpq frt frb rc)) (hwf : i.wellFormed = true)
    (hb : sourceDfp Fs s frb = .fin sg c e) :
    Narrows Fs Ft alpha ∧ (Fs = .dfp128 → frt.isEven = true) ∧ ∃ ws : Dfp → List (FReg × Doubleword),
      (∀ d, d.fits Ft = true → WritesDfp Ft frt d (ws d)) ∧
      exec i s = .next (finish (narrowedEffect Fs Ft frt ws rc (narrowFinite Fs Ft alpha sg c e s.fpscr)) s) := by
  rcases hop with ⟨rfl, rfl, rfl, rfl⟩ | ⟨rfl, rfl, rfl, rfl⟩
  · refine ⟨.inl ⟨rfl, rfl, rfl⟩, nofun, narrow32Writes (Config.drspPad s.freeCount) frt,
      fun d hd => writesDfp_narrow32 _ hd, ?_⟩
    rw [exec_wellFormed hwf]
    simp only [effectOf, roundToDfp32Effect, hb]
  · have heven : frt.isEven = true := List.all_eq_true.mp hwf frt List.mem_cons_self
    refine ⟨.inr ⟨rfl, rfl, rfl⟩, fun _ => heven, narrow64Writes (Config.drdpqPad s.freeCount) frt,
      fun d hd => writesDfp_narrow64 _ heven hd, ?_⟩
    rw [exec_wellFormed hwf]
    simp only [effectOf, roundToDfp64Effect, hb]

/-- A narrowed result is read back in the format it was written in. -/
theorem narrowedEffect_shown {ws : Dfp → List (FReg × Doubleword)} {r : Delivered} (heven : Fs = .dfp128 → frt.isEven = true)
    (hws : ∀ d, d.fits Ft = true → WritesDfp Ft frt d (ws d)) (hr : r.Reports) (hfits : r.d.fits (r.formatIn Ft Fs) = true) :
    r.Shown Ft Fs frt s (finish (narrowedEffect Fs Ft frt ws rc r) s) := by
  refine shown_of_commit s hr ?_ rfl
  unfold narrowedEffect Delivered.formatIn at *
  cases hforce : r.forceNormal
  · rw [hforce, if_neg Bool.false_ne_true] at hfits
    simpa [hforce] using hws _ hfits
  · rw [hforce, if_pos rfl] at hfits
    simpa [hforce] using writesDfp_dfpWrites heven hfits

/-- Settles O50: a zero is clamped, and every other number is delivered in the narrower format. -/
theorem narrowFinite' : Obligations.NarrowFinite := by
  intro Fs Ft alpha s frt frb rc i sg c e hop hwf hb
  obtain ⟨hnarrow, heven, ws, hws, hexec⟩ := exec_narrow hop hwf hb
  have hsource : (Dfp.fin sg c e).fits Fs = true := hb ▸ sourceDfp_fits Fs s frb
  have hval : Mag.value { num := c, den := 1, exp := e } = finValue false c e := by
    rw [Mag.value, finValue_false, Nat.cast_one, div_one]
  have hnonzero (hc : c ≠ 0) : narrowFinite Fs Ft alpha sg c e s.fpscr =
      deliver Ft Fs.xmax sg { num := c, den := 1, exp := e } e (drnMode s.fpscr) alpha s.fpscr := if_neg hc
  refine ⟨fun hc hfits hue => ⟨_, hexec, ?_⟩, fun hc => ⟨_, hexec, ?_⟩, fun hc => ⟨_, hexec, ?_⟩⟩
  · obtain ⟨hlt, hlo, hhi⟩ := fits_fin_iff.mp hfits
    rw [hnonzero hc]
    obtain ⟨hd, hfi, hfr, hexc, hforce⟩ := deliver_exact (v := { num := c, den := 1, exp := e }) (Nat.pos_of_ne_zero hc)
      Nat.one_pos hlt hlo hhi hval hue Fs.xmax sg (drnMode s.fpscr) alpha
    refine (narrowedEffect_shown heven hws (deliver_reports ..) ?_).exactResult hd hfi hfr hexc hforce
    rw [hd, Delivered.formatIn, hforce, if_neg Bool.false_ne_true]
    exact hfits
  · have hzero : narrowFinite Fs Ft alpha sg c e s.fpscr =
        { d := .fin sg 0 (clamp e Ft.xmin Ft.xmax), fi := false, fr := false, exc := [], forceNormal := false } := if_pos hc
    rw [hzero]
    refine (narrowedEffect_shown heven hws (hzero ▸ narrowFinite_reports Fs Ft alpha sg c e s.fpscr) ?_).exactResult rfl rfl
      rfl rfl rfl
    exact zero_clamp_fits Ft sg e
  · rw [hnonzero hc, ← hval]
    have hn : 0 < (Mag.mk c 1 e).num := Nat.pos_of_ne_zero hc
    have hwrap : WrapFits Ft Fs alpha (Mag.value { num := c, den := 1, exp := e }) := hval ▸ wrapFits_narrow hnarrow hsource hc
    exact delivery_of_shown hn Nat.one_pos
      (narrowedEffect_shown heven hws (deliver_reports ..) (deliver_fits hn Nat.one_pos hwrap s.fpscr))

end

/-- The rightmost digits of a payload fit the narrower format (R308). -/
theorem payload_mod_lt (cc k : Nat) : cc % 10 ^ k < 10 ^ k := Nat.mod_lt _ (by positivity)

/-- Settles O51: a special keeps the rightmost digits of its payload, in the bits of the narrower format. -/
theorem narrowSpecials : Obligations.NarrowSpecials := by
  intro s frt frb rc sg cc
  have hexec (ht : frt.val % 2 = 0) (hb : frb.val % 2 = 0) :
      exec (.drdpq frt frb rc) s = .next (finish (roundToDfp64Effect frt frb rc s) s) :=
    exec_wellFormed (i := .drdpq frt frb rc) (by
      simp [Instr.wellFormed, Instr.pairFields, isEven_iff.mpr ht, isEven_iff.mpr hb]) s
  have hquiet : (Dfp.qnan sg (cc % 10 ^ 15)).fits .dfp64 = true := fits_qnan_iff.mpr (payload_mod_lt cc 15)
  refine ⟨fun d hd hspecial => ⟨_, exec_wellFormed rfl s, ?_⟩, fun ht hb hd => ⟨_, hexec ht hb, ?_⟩,
    fun ht hb hd => ⟨_, hexec ht hb, ?_⟩, fun ht hb hd => ⟨_, hexec ht hb, ?_⟩⟩
  · simp only [effectOf, roundToDfp32Effect, hd]
    rcases hspecial with rfl | rfl | rfl
    · exact exactResult_of_writes (writesDfp_narrow32 _ (fits_snan_iff.mpr (payload_mod_lt cc 6))) rfl
    · exact exactResult_of_writes (writesDfp_narrow32 _ (fits_qnan_iff.mpr (payload_mod_lt cc 6))) rfl
    · exact exactResult_of_writes (writesDfp_narrow32 _ (fits_inf_iff.mpr (payload_mod_lt cc 6))) rfl
  · simp only [roundToDfp64Effect, hd]
    exact exactResult_of_writes (writesDfp_narrow64 _ (isEven_iff.mpr ht) hquiet) rfl
  · simp only [roundToDfp64Effect, hd]
    exact exactResult_of_writes (writesDfp_narrow64 _ (isEven_iff.mpr ht) (inf_fits .dfp64 sg)) rfl
  · simp only [roundToDfp64Effect, hd]
    have hkind : ∀ y ∈ [Exc.vxsnan], y.kind = .invalid := by decide
    split
    · next hve =>
      exact invalidResult_of_effect (x := .vxsnan) List.mem_cons_self rfl hkind rfl
        (fun h => absurd (h.symm.trans hve) Bool.false_ne_true) fun _ => ⟨rfl, rfl⟩
    · next hve =>
      exact invalidResult_of_effect (x := .vxsnan) List.mem_cons_self rfl hkind rfl
        (fun _ => ⟨writesDfp_narrow64 _ (isEven_iff.mpr ht) hquiet, rfl⟩) fun h => absurd h hve

/-! ### Fixed-point numbers (R305, R306) -/

/-- A nonzero integer is a normal number. -/
theorem fprfOf_integer {c : Nat} (hc : c ≠ 0) (sg : Bool) :
    fprfOf .dfp128 (.fin sg c 0) = if sg = true then 0b01000#5 else 0b00100#5 := by
  have hrange : Format.dfp128.xmin + Format.dfp128.prec ≤ 0 := by decide
  have hnormal : isSubnormal .dfp128 c 0 = false := decide_eq_false (by omega)
  rw [fprfOf_fin hc, hnormal, if_neg Bool.false_ne_true]

/-- Settles O52: every signed doubleword is a DFP128 number of exponent 0. -/
theorem fromFixed : Obligations.FromFixed := by
  intro s frt frb rc heven
  have hexec : exec (.dcffixq frt frb rc) s = .next (finish (fromFixedEffect frt frb rc s) s) :=
    exec_wellFormed (i := .dcffixq frt frb rc) (by simp [Instr.wellFormed, Instr.pairFields, isEven_iff.mpr heven]) s
  have hfits : (dfpOfInt (readFpr s frb).toInt).fits .dfp128 = true := by
    have h1 := (readFpr s frb).toInt_lt
    have h2 := (readFpr s frb).le_toInt
    refine fits_fin_iff.mpr ⟨?_, by decide, by decide⟩
    show (readFpr s frb).toInt.natAbs < 10 ^ 34
    omega
  obtain ⟨hdone, hres, hfprf, hkept⟩ := convertedEffect_result (rc := rc) (s := s) (fun _ => isEven_iff.mpr heven) hfits
  refine ⟨_, hexec, hdone, hres, ?_, hkept⟩
  refine hfprf.trans ?_
  rcases lt_trichotomy (readFpr s frb).toInt 0 with h | h | h
  · rw [if_pos h, dfpOfInt, decide_eq_true h, fprfOf_integer (Int.natAbs_ne_zero.mpr h.ne), if_pos rfl]
  · rw [if_neg h.not_lt, if_pos h, h]
    rfl
  · rw [if_neg h.not_gt, if_neg h.ne', dfpOfInt, decide_eq_false h.not_gt, fprfOf_integer (Int.natAbs_ne_zero.mpr h.ne'),
      if_neg Bool.false_ne_true]

section
variable {F : Format} {frt frb : FReg} {rc : Bool} {s : State} {x : Fixed}

/-- The effect of an outcome of Convert To Fixed. -/
def fixedEffect (frt : FReg) (rc : Bool) (fpscr : BitVec 64) : Fixed → Effect
  | .invalid exc v =>
    { fprs := if enabled fpscr .invalid = true then [] else [(frt, BitVec.ofInt 64 v)]
      commit := some { exc := exc, fi := some false, fr := some false }
      rc := rc }
  | .value v fi fr =>
    { fprs := [(frt, BitVec.ofInt 64 v)], commit := some { exc := xxIf fi, fi := some fi, fr := some fr }, rc := rc }

theorem toFixedEffect_eq (F : Format) (frt frb : FReg) (rc : Bool) (s : State) :
    toFixedEffect F frt frb rc s = fixedEffect frt rc s.fpscr (toFixed (drnMode s.fpscr) (sourceDfp F s frb)) := by
  unfold toFixedEffect
  split
  · next h => rw [h]; rfl
  · next h => rw [h]; rfl

/-- `dctfix[q]` runs with the outcome for its operand. -/
theorem exec_toFixed {op : FReg → FReg → Bool → Instr} (hop : (F = .dfp64 ∧ op = .dctfix) ∨ (F = .dfp128 ∧ op = .dctfixq))
    (hwf : (op frt frb rc).wellFormed = true) (s : State) : exec (op frt frb rc) s =
      .next (finish (fixedEffect frt rc s.fpscr (toFixed (drnMode s.fpscr) (sourceDfp F s frb))) s) := by
  rw [← toFixedEffect_eq]
  exact exec_of_format (eff := fun F s => toFixedEffect F frt frb rc s) (op_family hop (· frt frb rc)) hwf (fun _ => rfl)
    (fun _ => rfl) s

/-- FPRF is unchanged in every case (R306). -/
theorem fixedEffect_fprf (x : Fixed) : fprfField (finish (fixedEffect frt rc s.fpscr x) s).fpscr = fprfField s.fpscr := by
  cases x with
  | invalid exc v => exact fprfField_finish_kept (e := fixedEffect frt rc s.fpscr (.invalid exc v)) rfl rfl rfl
  | value v fi fr => exact fprfField_finish_kept (e := fixedEffect frt rc s.fpscr (.value v fi fr)) rfl rfl rfl

/-- An out-of-range or special operand: VXCVI, no XX; the integer is delivered where the exception is disabled. -/
structure FixedInvalid (frt : FReg) (exc : List Exc) (v : Int) (s t : State) : Prop where
  vxcvi : bitAt t.fpscr 55 = true
  vx : bitAt t.fpscr 34 = true
  flags : roundingFlagsClear t.fpscr = true
  xx : bitAt t.fpscr 38 = bitAt s.fpscr 38
  vxsnan : bitAt t.fpscr 39 = (bitAt s.fpscr 39 || decide (.vxsnan ∈ exc))
  disabled : bitAt s.fpscr 56 = false → Completed s t ∧ readFpr t frt = BitVec.ofInt 64 v
  enabled : bitAt s.fpscr 56 = true → t.fpr = s.fpr ∧ bitAt t.fpscr 33 = true

theorem fixedEffect_invalid {exc : List Exc} (hexc : exc = [.vxcvi] ∨ exc = [.vxcvi, .vxsnan]) (v : Int) :
    FixedInvalid frt exc v s (finish (fixedEffect frt rc s.fpscr (.invalid exc v)) s) := by
  have hc : (fixedEffect frt rc s.fpscr (.invalid exc v)).commit =
      some { exc := exc, fi := some false, fr := some false } := rfl
  have hkind : ∀ y ∈ exc, y.kind = .invalid := by rcases hexc with rfl | rfl <;> decide
  have hmem : Exc.vxcvi ∈ exc := by rcases hexc with rfl | rfl <;> decide
  have hxx : Exc.xx ∉ exc := by rcases hexc with rfl | rfl <;> decide
  have hstatus := bitAt_finish_exc (s := s) hc nofun
  refine ⟨?_, ?_, roundingFlagsClear_finish hc rfl rfl, ?_, hstatus .vxsnan, fun hve => ⟨?_, ?_⟩, fun hve => ⟨?_, ?_⟩⟩
  · exact (hstatus .vxcvi).trans (by rw [decide_eq_true hmem, Bool.or_true])
  · rw [finish_fpscr]
    exact bitAt_fpscrAfter_vx (x := .vxcvi) _ hmem rfl
  · exact (hstatus .xx).trans (by rw [decide_eq_false hxx, Bool.or_false]; rfl)
  · exact finish_completed_of_disabled (.inl fun y hy => (congrArg (Machine.enabled s.fpscr) (hkind y hy)).trans hve)
  · exact readFpr_finish_single _ _ _ _ (if_neg fun h => Bool.false_ne_true (hve.symm.trans h))
  · rw [finish_fpr, show (fixedEffect frt rc s.fpscr (.invalid exc v)).fprs = [] from if_pos hve]
    rfl
  · exact bitAt_finish_fex (x := .vxcvi) hmem hve

/-- An operand in range: the integer, with FI, FR and XX from the rounding. -/
structure FixedValue (frt : FReg) (v : Int) (fi fr : Bool) (s t : State) : Prop where
  result : readFpr t frt = BitVec.ofInt 64 v
  fiBit : bitAt t.fpscr 46 = fi
  frBit : bitAt t.fpscr 45 = fr
  status : ∀ b ∈ statusBits, bitAt t.fpscr b = (bitAt s.fpscr b || (b == 38 && fi))
  done : fi = false ∨ bitAt s.fpscr 60 = false ∨ s.feMode = 0b00#2 → Completed s t
  raised : fi = true → bitAt s.fpscr 60 = true → bitAt t.fpscr 33 = true

theorem fixedEffect_value (v : Int) (fi fr : Bool) :
    FixedValue frt v fi fr s (finish (fixedEffect frt rc s.fpscr (.value v fi fr)) s) := by
  have hc : (fixedEffect frt rc s.fpscr (.value v fi fr)).commit =
      some { exc := xxIf fi, fi := some fi, fr := some fr } := rfl
  refine ⟨readFpr_finish_single _ _ _ _ rfl, bitAt_finish_fi hc rfl, bitAt_finish_fr hc rfl, fun b hb => ?_, fun h => ?_,
    fun hfi hxe => bitAt_finish_fex (x := .xx) ((mem_xxIf _ _).mpr ⟨hfi, rfl⟩) hxe⟩
  · rw [bitAt_finish_status hc (fun h => (mem_xxIf _ _).mpr ⟨h, rfl⟩) hb]
    cases fi
    · rw [Bool.and_false]
      rfl
    · rw [Bool.and_true, Bool.beq_comm]
      exact congrArg _ (Bool.or_false _)
  · refine finish_completed_of_disabled ?_
    rcases h with rfl | h | h
    · exact .inl nofun
    · exact .inl fun x hx => by
        obtain ⟨-, rfl⟩ := (mem_xxIf _ _).mp hx
        exact h
    · exact .inr h

end

section
variable {mode : RMode} {sg : Bool} {c : Nat} {e : Int}

/-- The rounding of a finite operand to an integer (R306). -/
def fixRounded (mode : RMode) (sg : Bool) (c : Nat) (e : Int) : RoundedInt :=
  roundAt mode sg { num := c, den := 1, exp := e } 0

theorem fixRounded_spec (mode : RMode) (sg : Bool) (c : Nat) (e : Int) :
    RoundsTo mode sg (finValue false c e) (fixRounded mode sg c e).n ∧
      ((fixRounded mode sg c e).inexact = true ↔ ((fixRounded mode sg c e).n : ℚ) ≠ finValue false c e) ∧
      ((fixRounded mode sg c e).incremented = true ↔ finValue false c e < (fixRounded mode sg c e).n) := by
  have hval : Mag.value { num := c, den := 1, exp := e } = finValue false c e := by
    rw [Mag.value, finValue_false, Nat.cast_one, div_one]
  have hint : ∀ n : Nat, finValue false n 0 = n := fun n => by rw [finValue_false, zpow_zero, mul_one]
  obtain ⟨h1, h2, h3⟩ := roundAt_spec mode sg (v := { num := c, den := 1, exp := e }) Nat.one_pos 0
  rw [zpow_zero, div_one, hval] at h1
  rw [hint, hval] at h2 h3
  exact ⟨h1, h2, h3⟩

/-- The rounded integer, with its sign, is tested for range (R306). -/
theorem toFixed_fin (mode : RMode) (sg : Bool) (c : Nat) (e : Int) : toFixed mode (.fin sg c e) =
    if (if sg = true then -1 else 1) * ((fixRounded mode sg c e).n : Int) < mostNegative then .invalid [.vxcvi] mostNegative
    else if mostPositive < (if sg = true then -1 else 1) * ((fixRounded mode sg c e).n : Int) then
      .invalid [.vxcvi] mostPositive
    else .value ((if sg = true then -1 else 1) * ((fixRounded mode sg c e).n : Int)) (fixRounded mode sg c e).inexact
      (fixRounded mode sg c e).incremented := by
  cases sg <;> simp [toFixed, fixFinite, fixRounded]

/-- A rounded integer in range is the result. -/
theorem toFixed_inRange (h : (fixRounded mode sg c e).n < 2 ^ 63 ∨ (sg = true ∧ (fixRounded mode sg c e).n = 2 ^ 63)) :
    toFixed mode (.fin sg c e) = .value ((if sg = true then -1 else 1) * ((fixRounded mode sg c e).n : Int))
      (fixRounded mode sg c e).inexact (fixRounded mode sg c e).incremented := by
  rw [toFixed_fin, if_neg ?_, if_neg ?_]
  · unfold mostPositive
    cases sg
    · simp only [Bool.false_eq_true, false_and, or_false, if_false] at h ⊢
      omega
    · simp only [true_and, if_true] at h ⊢
      omega
  · unfold mostNegative
    cases sg
    · simp only [Bool.false_eq_true, false_and, or_false, if_false] at h ⊢
      omega
    · simp only [true_and, if_true] at h ⊢
      omega

/-- One out of range is an invalid operation, with the bound on its side. -/
theorem toFixed_outOfRange (h : 2 ^ 63 < (fixRounded mode sg c e).n ∨ (sg = false ∧ (fixRounded mode sg c e).n = 2 ^ 63)) :
    toFixed mode (.fin sg c e) = .invalid [.vxcvi] (if sg = true then mostNegative else mostPositive) := by
  rw [toFixed_fin]
  cases sg
  · rw [if_neg ?_, if_pos ?_, if_neg Bool.false_ne_true]
    · simp [mostPositive] at h ⊢
      omega
    · simp [mostNegative]
  · rw [if_pos ?_, if_pos rfl]
    simp [mostNegative] at h ⊢
    omega

end

theorem ofInt_bound (sg : Bool) : BitVec.ofInt 64 (if sg = true then mostNegative else mostPositive) =
    if sg = true then 0x8000000000000000#64 else 0x7FFFFFFFFFFFFFFF#64 := by
  cases sg <;> decide

/-- A signed integer in range is the doubleword's. -/
theorem toInt_ofInt_inRange {sg : Bool} {n : Nat} (h : n < 2 ^ 63 ∨ (sg = true ∧ n = 2 ^ 63)) :
    (BitVec.ofInt 64 ((if sg = true then -1 else 1) * (n : Int))).toInt = (if sg = true then -1 else 1) * (n : Int) := by
  refine BitVec.toInt_ofInt_eq_self (by norm_num) ?_ ?_ <;> cases sg <;> simp at h ⊢ <;> omega

/-- Settles O54: the rounded integer is tested for range. -/
theorem toFixedRounds : Obligations.ToFixedRounds := by
  intro F op s frt frb rc sg c e hop hwf hb
  have hexec := exec_toFixed hop hwf s
  rw [hb] at hexec
  obtain ⟨hr, hinex, hinc⟩ := fixRounded_spec (drnMode s.fpscr) sg c e
  refine ⟨_, _, hexec, hr, fixedEffect_fprf _, fun hin => ?_, fun hout => ?_⟩
  · rw [toFixed_inRange hin]
    have hres := fixedEffect_value (frt := frt) (rc := rc) (s := s)
      ((if sg = true then -1 else 1) * ((fixRounded (drnMode s.fpscr) sg c e).n : Int))
      (fixRounded (drnMode s.fpscr) sg c e).inexact (fixRounded (drnMode s.fpscr) sg c e).incremented
    refine ⟨by rw [hres.result, toInt_ofInt_inRange hin], by rw [hres.fiBit, hinex], by rw [hres.frBit, hinc], ?_, ?_,
      fun h => hres.done (h.imp_left fun heq => ?_), fun hne hxe => hres.raised (hinex.mpr hne) hxe⟩
    · rw [hres.status 38 (by decide), hres.fiBit]
      rfl
    · rw [hres.status 55 (by decide)]
      exact Bool.or_false _
    · rw [← Bool.not_eq_true, hinex]
      exact not_not.mpr heq
  · rw [toFixed_outOfRange hout]
    have hres := fixedEffect_invalid (frt := frt) (rc := rc) (s := s) (.inl rfl)
      (if sg = true then mostNegative else mostPositive)
    exact ⟨hres.vxcvi, hres.vx, hres.flags, hres.xx,
      fun hve => ⟨(hres.disabled hve).1, (hres.disabled hve).2.trans (ofInt_bound sg)⟩, hres.enabled⟩

/-- Settles O53: an exponent of at least 0 needs no rounding, and a special is invalid. -/
theorem toFixed' : Obligations.ToFixed := by
  intro F op s frt frb rc hop hwf hve
  have hexec := exec_toFixed hop hwf s
  refine ⟨_, hexec, fixedEffect_fprf _, fun sg c e hb he => ?_, fun sg cc hb => ?_, fun hnan => ?_⟩
  · rw [hb]
    obtain ⟨hr, hinex, hinc⟩ := fixRounded_spec (drnMode s.fpscr) sg c e
    have hval : finValue false c e = ((c * 10 ^ e.toNat : Nat) : ℚ) := by
      rw [finValue_false, Nat.cast_mul, ← ten_zpow_natCast, Int.toNat_of_nonneg he]
    rw [hval] at hr hinex hinc
    have hn := hr.eq_of_natCast
    rw [hn] at hinex hinc
    have hfi : (fixRounded (drnMode s.fpscr) sg c e).inexact = false := by
      rw [← Bool.not_eq_true, hinex]
      exact not_not.mpr rfl
    have hfr : (fixRounded (drnMode s.fpscr) sg c e).incremented = false := by
      rw [← Bool.not_eq_true, hinc]
      exact lt_irrefl _
    have hin (h : c * 10 ^ e.toNat < 2 ^ 63 ∨ (sg = true ∧ c * 10 ^ e.toNat = 2 ^ 63)) :
        toFixed (drnMode s.fpscr) (.fin sg c e) =
          .value ((if sg = true then -1 else 1) * ((c * 10 ^ e.toNat : Nat) : Int)) false false := by
      have := toFixed_inRange (mode := drnMode s.fpscr) (c := c) (e := e) (sg := sg) (by rwa [hn])
      rwa [hn, hfi, hfr] at this
    have hout (h : 2 ^ 63 < c * 10 ^ e.toNat ∨ (sg = false ∧ c * 10 ^ e.toNat = 2 ^ 63)) :
        toFixed (drnMode s.fpscr) (.fin sg c e) = .invalid [.vxcvi] (if sg = true then mostNegative else mostPositive) :=
      toFixed_outOfRange (by rwa [hn])
    refine ⟨?_, fun h => ?_, fun h => ?_⟩
    · rcases lt_trichotomy (c * 10 ^ e.toNat) (2 ^ 63) with h | h | h
      · rw [hin (.inl h)]
        exact (fixedEffect_value _ _ _).done (.inl rfl)
      · cases sg
        · rw [hout (.inr ⟨rfl, h⟩)]
          exact ((fixedEffect_invalid (frt := frt) (.inl rfl) _).disabled hve).1
        · rw [hin (.inr ⟨rfl, h⟩)]
          exact (fixedEffect_value _ _ _).done (.inl rfl)
      · rw [hout (.inl h)]
        exact ((fixedEffect_invalid (frt := frt) (.inl rfl) _).disabled hve).1
    · rw [hin h]
      have hres := fixedEffect_value (frt := frt) (rc := rc) (s := s)
        ((if sg = true then -1 else 1) * ((c * 10 ^ e.toNat : Nat) : Int)) false false
      refine ⟨by rw [hres.result, toInt_ofInt_inRange h], ?_, fun b hb => ?_⟩
      · rw [roundingFlagsClear, hres.fiBit, hres.frBit]
        rfl
      · rw [hres.status b hb, Bool.and_false, Bool.or_false]
    · rw [hout h]
      have hres := fixedEffect_invalid (frt := frt) (rc := rc) (s := s) (.inl rfl)
        (if sg = true then mostNegative else mostPositive)
      exact ⟨(hres.disabled hve).2.trans (ofInt_bound sg), hres.vxcvi, hres.flags⟩
  · rw [hb]
    have hres := fixedEffect_invalid (frt := frt) (rc := rc) (s := s) (.inl rfl)
      (if sg = true then mostNegative else mostPositive)
    exact ⟨(hres.disabled hve).1, (hres.disabled hve).2.trans (ofInt_bound sg), hres.vxcvi,
      hres.vxsnan.trans (Bool.or_false _), hres.flags⟩
  · have hspecial : ∃ exc, (exc = [.vxcvi] ∨ exc = [.vxcvi, .vxsnan]) ∧
        toFixed (drnMode s.fpscr) (sourceDfp F s frb) = .invalid exc mostNegative ∧
        decide (Exc.vxsnan ∈ exc) = (sourceDfp F s frb).isSNaN := by
      generalize sourceDfp F s frb = b at hnan
      cases b with
      | fin => cases hnan
      | inf => cases hnan
      | qnan => exact ⟨_, .inl rfl, rfl, rfl⟩
      | snan => exact ⟨_, .inr rfl, rfl, rfl⟩
    obtain ⟨exc, hexc, hfix, hsig⟩ := hspecial
    rw [hfix]
    have hres := fixedEffect_invalid (frt := frt) (rc := rc) (s := s) hexc mostNegative
    exact ⟨(hres.disabled hve).1, (hres.disabled hve).2.trans (by decide), hres.vxcvi, hsig ▸ hres.vxsnan, hres.flags⟩

end Sys2Proof.Machine
end

section
/-! The format instructions (47_format.md): BCD nibbles, exponents and shifted coefficients. -/

namespace Sys2Proof.Machine

-- One proof at a time: elaborated in parallel, they need more memory than the check allows.
set_option Elab.async false

/-! ### BCD nibbles (R336, R337) -/

theorem bcdPack_lt (k : Nat) : ∀ n, bcdPack n k < 16 ^ k := by
  induction k with
  | zero => intro n; exact Nat.one_pos
  | succ k ih =>
    intro n
    have := ih (n / 10)
    rw [bcdPack, pow_succ]
    omega

/-- The nibbles left of the rightmost one. -/
theorem nibble_succ {x d : Nat} (hd : d < 16) (j : Nat) : (x * 16 + d) / 16 ^ (j + 1) % 16 = x / 16 ^ j % 16 := by
  rw [pow_succ', ← Nat.div_div_eq_div_mul, show (x * 16 + d) / 16 = x by omega]

theorem digit_succ (n j : Nat) : n / 10 ^ (j + 1) % 10 = n / 10 / 10 ^ j % 10 := by
  rw [pow_succ', Nat.div_div_eq_div_mul]

/-- Each nibble is the digit at its place. -/
theorem bcdPack_nibble (k : Nat) : ∀ n j, j < k → bcdPack n k / 16 ^ j % 16 = n / 10 ^ j % 10 := by
  induction k with
  | zero => intro n j hj; exact absurd hj (Nat.not_lt_zero j)
  | succ k ih =>
    intro n j hj
    rw [bcdPack]
    cases j with
    | zero =>
      rw [pow_zero, pow_zero, Nat.div_one, Nat.div_one]
      omega
    | succ j => rw [nibble_succ (by omega), ih _ _ (Nat.lt_of_succ_lt_succ hj), digit_succ]

/-- Nibbles that are the digits of a number unpack to it. -/
theorem bcdUnpack_digits (k : Nat) : ∀ w n, n < 10 ^ k → (∀ j, j < k → w / 16 ^ j % 16 = n / 10 ^ j % 10) →
    bcdUnpack w k = some n := by
  induction k with
  | zero =>
    intro w n hn _
    rw [pow_zero] at hn
    rw [bcdUnpack, Nat.lt_one_iff.mp hn]
  | succ k ih =>
    intro w n hn h
    have h0 := h 0 (Nat.succ_pos k)
    rw [pow_zero, pow_zero, Nat.div_one, Nat.div_one] at h0
    have hrest : bcdUnpack (w / 16) k = some (n / 10) := by
      refine ih _ _ (by rw [pow_succ] at hn; omega) fun j hj => ?_
      rw [← digit_succ, ← h (j + 1) (Nat.succ_lt_succ hj), pow_succ', Nat.div_div_eq_div_mul]
    rw [bcdUnpack, if_neg (by omega), hrest]
    simp only [Option.some.injEq]
    omega

/-- A nibble that is no digit makes the operand invalid. -/
theorem bcdUnpack_invalid (k : Nat) : ∀ w j, j < k → 9 < w / 16 ^ j % 16 → bcdUnpack w k = none := by
  induction k with
  | zero => intro w j hj; exact absurd hj (Nat.not_lt_zero j)
  | succ k ih =>
    intro w j hj h
    rw [bcdUnpack]
    cases j with
    | zero =>
      rw [pow_zero, Nat.div_one] at h
      rw [if_pos h]
    | succ j =>
      rw [pow_succ', ← Nat.div_div_eq_div_mul] at h
      rw [ih _ j (Nat.lt_of_succ_lt_succ hj) h, ite_self]

/-- The codes from 10 on are signs, 11 and 13 minus (R337). -/
theorem bcdSign_code : ∀ nib, nib < 16 → 10 ≤ nib → bcdSign nib = some (decide (nib = 11 ∨ nib = 13)) := by decide

theorem bcdSign_digit : ∀ nib, nib < 10 → bcdSign nib = none := by decide

/-! ### Reading the target of an instruction that calls no `Commit` -/

section
variable {F : Format} {frt : FReg} {rc : Bool} {s : State}

theorem sourceBits_plainEffect (heven : F = .dfp128 → frt.isEven = true) {w : Nat} (hw : w < 2 ^ F.width) :
    sourceBits F (finish (plainEffect (targetWrites F frt w) rc) s) frt = w :=
  (sourceBits_congr (finish_fpr _ _) F frt).trans (sourceBits_targetWrites heven hw s)

theorem sourceDfp_plainEffect (heven : F = .dfp128 → frt.isEven = true) {d : Dfp} (hd : d.fits F = true) :
    sourceDfp F (finish (plainEffect (dfpWrites F frt d) rc) s) frt = d :=
  sourceDfp_finish (e := plainEffect (dfpWrites F frt d) rc) (writesDfp_dfpWrites heven hd)

end

theorem nibbles_spec {F : Format} {p q : Prop} (h : (F = .dfp64 ∧ p) ∨ (F = .dfp128 ∧ q)) :
    0 < F.nibbles ∧ F.nibbles ≤ F.prec ∧ 2 ^ F.width = 16 ^ F.nibbles := by
  rcases h with ⟨rfl, -⟩ | ⟨rfl, -⟩ <;> decide

/-! ### Decode DPD To BCD (R331, R332) -/

theorem decodeBcd_lt {k : Nat} (hk : 0 < k) (sp0 sp1 : Bool) (b : Dfp) : decodeBcd k sp0 sp1 b < 16 ^ k := by
  unfold decodeBcd
  split
  · have h1 := bcdPack_lt (k - 1) (coefDigits b)
    have h2 : signNibble b.sign sp1 < 16 := by cases b.sign <;> cases sp1 <;> decide
    have h3 : 16 ^ k = 16 ^ (k - 1) * 16 := by rw [← pow_succ, Nat.sub_add_cancel hk]
    omega
  · exact bcdPack_lt k _

/-- The nibbles of the BCD result. -/
theorem decodeBcd_nibble (sp0 sp1 : Bool) (b : Dfp) {k j : Nat} (hj : j < k) : decodeBcd k sp0 sp1 b / 16 ^ j % 16 =
    if sp0 = false then coefDigits b / 10 ^ j % 10
    else if j = 0 then (if b.sign = true then 13 else if sp1 = true then 15 else 12)
    else coefDigits b / 10 ^ (j - 1) % 10 := by
  have hsign : signNibble b.sign sp1 < 16 := by cases b.sign <;> cases sp1 <;> decide
  unfold decodeBcd
  cases sp0
  · rw [if_neg Bool.false_ne_true, if_pos rfl]
    exact bcdPack_nibble k _ j hj
  · rw [if_pos rfl, if_neg (fun h => Bool.false_ne_true h.symm)]
    cases j with
    | zero =>
      rw [if_pos rfl, pow_zero, Nat.div_one, Nat.mul_add_mod_self_right, Nat.mod_eq_of_lt hsign]
      rfl
    | succ j =>
      rw [if_neg (Nat.succ_ne_zero j), nibble_succ hsign, bcdPack_nibble _ _ _ (by omega), Nat.add_sub_cancel]

/-- Settles O55: the target holds the packed digits. -/
theorem decodeToBcd : Obligations.DecodeToBcd := by
  intro F op s frt frb sp0 sp1 rc hop hwf
  have hfam := op_family hop (· frt sp0 sp1 frb rc)
  have heven := even_of_format hfam hwf (r := frt) List.mem_cons_self
  obtain ⟨hk, -, hwidth⟩ := nibbles_spec hop
  refine ⟨_, exec_of_format (eff := fun F s => decodeDpdEffect F frt sp0 sp1 frb rc s) hfam hwf (fun _ => rfl) (fun _ => rfl) s,
    plainEffect_result _ rc, fun n hn k hlt => ?_⟩
  have hcoef : coefDigits (sourceDfp F s frb) = n := by
    rcases hn with ⟨sg, e, h⟩ | ⟨sg, h | h | h⟩ <;> rw [h] <;> rfl
  have hbits := sourceBits_plainEffect (rc := rc) (s := s) heven (w := decodeBcd F.nibbles sp0 sp1 (sourceDfp F s frb))
    (hwidth ▸ decodeBcd_lt hk sp0 sp1 _)
  rw [show decodeDpdEffect F frt sp0 sp1 frb rc s =
    plainEffect (targetWrites F frt (decodeBcd F.nibbles sp0 sp1 (sourceDfp F s frb))) rc from rfl, hbits,
    decodeBcd_nibble (k := F.nibbles) sp0 sp1 _ hlt, hcoef]

/-! ### Encode BCD To DPD (R333, R334) -/

/-- A number of nibbles is a coefficient of exponent 0 of the format. -/
theorem bcd_fits {F : Format} {p q : Prop} (h : (F = .dfp64 ∧ p) ∨ (F = .dfp128 ∧ q)) {n : Nat} (hn : n < 10 ^ F.nibbles)
    (sg : Bool) : (Dfp.fin sg n 0).fits F = true := by
  have hzero : F.xmin ≤ 0 ∧ 0 ≤ F.xmax := by cases F <;> decide
  exact fits_fin_iff.mpr ⟨hn.trans_le (Nat.pow_le_pow_right (by norm_num) (nibbles_spec h).2.1), hzero.1, hzero.2⟩

theorem bcdToDfp_of_invalidDigit {k w : Nat} (h : bcdUnpack (w / 16) (k - 1) = none) : bcdToDfp k true w = none := by
  rw [bcdToDfp, if_pos rfl, h]
  cases bcdSign (w % 16) <;> rfl

theorem bcdToDfp_of_invalidSign (k : Nat) {w : Nat} (h : bcdSign (w % 16) = none) : bcdToDfp k true w = none := by
  rw [bcdToDfp, if_pos rfl, h]
  cases bcdUnpack (w / 16) (k - 1) <;> rfl

/-- Settles O56: the digits unpack to their number, and an invalid nibble to nothing. -/
theorem encodeFromBcd : Obligations.EncodeFromBcd := by
  intro F op s frt frb sgn rc hop hwf
  have hfam := op_family hop (· frt sgn frb rc)
  have heven := even_of_format hfam hwf (r := frt) List.mem_cons_self
  have hexec := exec_of_format (eff := fun F s => encodeBcdEffect F frt sgn frb rc s) hfam hwf (fun _ => rfl) (fun _ => rfl) s
  have hvalid {d : Dfp} (h : bcdToDfp F.nibbles sgn (sourceBits F s frb) = some d) (hd : d.fits F = true) :
      ExactResult F frt d s (finish (encodeBcdEffect F frt sgn frb rc s) s) := by
    rw [encodeBcdEffect, h]
    exact exactEffect_result heven hd rc
  refine ⟨fun n hsgn hn hdigits => ⟨_, hexec, hvalid ?_ (bcd_fits hop hn false)⟩,
    fun n hsgn hn hdigits hsign => ⟨_, hexec, hvalid ?_ (bcd_fits hop (hn.trans_le
      (Nat.pow_le_pow_right (by norm_num) (Nat.sub_le _ _))) _)⟩, fun hbad => ⟨_, hexec, ?_⟩⟩
  · rw [bcdToDfp, hsgn, if_neg Bool.false_ne_true, bcdUnpack_digits F.nibbles _ n hn hdigits]
  · have hrest : bcdUnpack (sourceBits F s frb / 16) (F.nibbles - 1) = some n := by
      refine bcdUnpack_digits _ _ n hn fun j hj => ?_
      rw [Nat.div_div_eq_div_mul, ← pow_succ']
      exact hdigits j hj
    rw [bcdToDfp, hsgn, if_pos rfl, hrest, bcdSign_code _ (Nat.mod_lt _ (by norm_num)) hsign]
  · have hnone : bcdToDfp F.nibbles sgn (sourceBits F s frb) = none := by
      rcases hbad with ⟨k, hk, hpos, hnib⟩ | ⟨hsgn, hsign⟩
      · cases sgn with
        | false => rw [bcdToDfp, if_neg Bool.false_ne_true, bcdUnpack_invalid F.nibbles _ k hk hnib]
        | true =>
          obtain ⟨j, rfl⟩ : ∃ j, k = j + 1 := ⟨k - 1, by have := hpos.resolve_left nofun; omega⟩
          rw [pow_succ', ← Nat.div_div_eq_div_mul] at hnib
          exact bcdToDfp_of_invalidDigit (bcdUnpack_invalid _ _ j (Nat.lt_sub_of_add_lt hk) hnib)
      · rw [hsgn]
        exact bcdToDfp_of_invalidSign _ (bcdSign_digit _ hsign)
    rw [encodeBcdEffect, hnone]
    exact invalidEffect_result (x := .vxcvi) heven rfl (defaultNaN_fits F) rc

/-! ### Biased exponents (R340 to R343) -/

/-- Settles O57: the biased exponent and the codes are small integers. -/
theorem extractExponent : Obligations.ExtractExponent := by
  intro F op s frt frb rc hop hwf
  have hexec := exec_of_format (eff := fun F s => extractExponentEffect F frt frb rc s) (op_family hop (· frt frb rc)) hwf
    (fun _ => rfl) (fun _ => rfl) s
  have hread : readFpr (finish (extractExponentEffect F frt frb rc s) s) frt =
      BitVec.ofInt 64 (biasedExponent F (sourceDfp F s frb)) := readFpr_finish_single _ _ _ _ rfl
  refine ⟨_, hexec, plainEffect_result _ rc, fun sg c e hb => ?_, fun sg cc hb => ?_, fun sg cc hb => ?_, fun sg cc hb => ?_⟩ <;>
    rw [hread, hb]
  · obtain ⟨-, hlo, hhi⟩ := fits_fin_iff.mp (hb ▸ sourceDfp_fits F s frb)
    have hmax : F.maxBiased < 2 ^ 63 := by cases F <;> decide
    unfold Format.xmin at hlo
    unfold Format.xmax at hhi
    exact BitVec.toInt_ofInt_eq_self (by norm_num) (by norm_num [biasedExponent]; omega) (by norm_num [biasedExponent]; omega)
  · exact BitVec.toInt_ofInt_eq_self (w := 64) (n := -1) (by norm_num) (by norm_num) (by norm_num)
  · exact BitVec.toInt_ofInt_eq_self (w := 64) (n := -2) (by norm_num) (by norm_num) (by norm_num)
  · exact BitVec.toInt_ofInt_eq_self (w := 64) (n := -3) (by norm_num) (by norm_num) (by norm_num)

/-- The result of Insert Biased Exponent is a value of the format. -/
theorem insertExponent_fits {F : Format} (a : Int) {b : Dfp} (hb : b.fits F = true) : (insertExponent F a b).fits F = true := by
  have hcc : ccDigits F b < 10 ^ (F.prec - 1) := payload_mod_lt _ _
  have hcoef : coefDigits b < 10 ^ F.prec := by
    have hpow : 10 ^ (F.prec - 1) ≤ 10 ^ F.prec := Nat.pow_le_pow_right (by norm_num) (Nat.sub_le _ _)
    cases b with
    | fin => exact (fits_fin_iff.mp hb).1
    | inf => exact (fits_inf_iff.mp hb).trans_le hpow
    | qnan => exact (fits_qnan_iff.mp hb).trans_le hpow
    | snan => exact (fits_snan_iff.mp hb).trans_le hpow
  unfold insertExponent
  split
  · next h => exact fits_fin_iff.mpr ⟨hcoef, by unfold Format.xmin; omega, by unfold Format.xmax; omega⟩
  split
  · exact fits_inf_iff.mpr hcc
  split
  · exact fits_snan_iff.mpr hcc
  · exact fits_qnan_iff.mpr hcc

/-- Settles O58: the target holds what Insert Biased Exponent makes of its operands. -/
theorem insertExponent' : Obligations.InsertExponent := by
  intro F op s frt fra frb rc sg n hop hwf hb
  have hfam := op_family hop (· frt fra frb rc)
  have heven := even_of_format hfam hwf (r := frt) List.mem_cons_self
  refine ⟨_, exec_of_format (eff := fun F s => insertExponentEffect F frt fra frb rc s) hfam hwf (fun _ => rfl) (fun _ => rfl) s,
    plainEffect_result _ rc, ?_⟩
  refine (sourceDfp_plainEffect heven (insertExponent_fits _ (sourceDfp_fits F s frb))).trans ?_
  have hb' : (sourceDfp F s frb).sign = sg ∧ coefDigits (sourceDfp F s frb) = n := by
    rcases hb with ⟨e, h⟩ | h | h | h <;> rw [h] <;> exact ⟨rfl, rfl⟩
  rw [insertExponent, ccDigits, hb'.1, hb'.2]
  rfl

/-! ### Shifted coefficients (R344 to R347) -/

theorem shiftDigits_lt {n k : Nat} (hn : n < 10 ^ k) (left : Bool) (sh : Nat) : shiftDigits n k left sh < 10 ^ k := by
  unfold shiftDigits
  split
  · exact payload_mod_lt _ _
  · exact (Nat.div_le_self _ _).trans_lt hn

theorem shiftCoefficient_fits {F : Format} {a : Dfp} (left : Bool) (sh : Nat) (ha : a.fits F = true) :
    (shiftCoefficient F left sh a).fits F = true := by
  cases a with
  | fin =>
    obtain ⟨hc, he⟩ := fits_fin_iff.mp ha
    exact fits_fin_iff.mpr ⟨shiftDigits_lt hc left sh, he⟩
  | inf => exact fits_inf_iff.mpr (shiftDigits_lt (fits_inf_iff.mp ha) left sh)
  | qnan => exact fits_qnan_iff.mpr (shiftDigits_lt (fits_qnan_iff.mp ha) left sh)
  | snan => exact fits_snan_iff.mpr (shiftDigits_lt (fits_snan_iff.mp ha) left sh)

/-- Settles O59: the target holds the operand with its digits shifted. -/
theorem shiftCoefficients : Obligations.ShiftCoefficients := by
  intro F left op s frt fra sh rc hop hwf
  obtain ⟨heven, hexec⟩ : (F = .dfp128 → frt.isEven = true) ∧
      exec (op frt fra sh rc) s = .next (finish (shiftEffect F left frt fra sh rc s) s) := by
    rcases hop with ⟨rfl, ⟨rfl, rfl⟩ | ⟨rfl, rfl⟩⟩ | ⟨rfl, ⟨rfl, rfl⟩ | ⟨rfl, rfl⟩⟩
    · exact ⟨nofun, exec_wellFormed hwf s⟩
    · exact ⟨nofun, exec_wellFormed hwf s⟩
    · exact ⟨fun _ => List.all_eq_true.mp hwf frt List.mem_cons_self, exec_wellFormed hwf s⟩
    · exact ⟨fun _ => List.all_eq_true.mp hwf frt List.mem_cons_self, exec_wellFormed hwf s⟩
  have hread : sourceDfp F (finish (shiftEffect F left frt fra sh rc s) s) frt =
      shiftCoefficient F left sh.val (sourceDfp F s fra) :=
    sourceDfp_plainEffect heven (shiftCoefficient_fits left sh.val (sourceDfp_fits F s fra))
  refine ⟨_, hexec, plainEffect_result _ rc, fun sg c e ha => ?_, fun sg cc ha => ?_, fun sg cc ha => ?_, fun sg cc ha => ?_⟩ <;>
    rw [hread, ha] <;> rfl

end Sys2Proof.Machine
end
